-- ==== Sys2Proof/Word.lean ====
section
/-!
DEFINITION. The two scalar widths of MWC, kept apart as 10_state R10 asks (a FieldElement is a byte, a
WideElement is 16 bits), and the 16-byte sequence that a matrix register or the block buffer holds.
-/

namespace Sys2Proof

/-- A FieldElement: bit i is the coefficient of x^i (00_scope R6, 10_state R10). -/
abbrev Byte := BitVec 8

/-- A WideElement: a polynomial of degree at most 15 (10_state R10). -/
abbrev Wide := BitVec 16

/-- Sixteen bytes: a serialised Matrix4 (42_matrix R86), or a message block in message order (10_state R16). -/
abbrev Block := Vector Byte 16

end Sys2Proof
end

