-- ==== Sys2Proof/Syntax.lean ====
section
/-!
DEFINITION. The command set MWC-CMD version 1: one constructor per row of spec/opcode_table.json
(30_encoding R48), in the table's order.
-/

namespace Sys2Proof

/-- The 21 commands (30_encoding R48). `r` is the round index field `c[2:0]` of format CR, all eight values of it:
a command with r = 6 or 7 decodes as its mnemonic and raises IllegalCommand when it executes (R47). -/
inductive Instr where
  /-- 0x00, 45_system R135 -/
  | nop
  /-- 0x10, 40_field R70 -/
  | gfadd
  /-- 0x11, 40_field R71 -/
  | gfmul
  /-- 0x12, 40_field R72 -/
  | gfinv
  /-- 0x13, 40_field R73 -/
  | gfdeg
  /-- 0x14, 40_field R74 -/
  | gfdiv
  /-- 0x20, 41_sbox R84 -/
  | sbox
  /-- 0x30, 42_matrix R90 -/
  | mzero
  /-- 0x31, 42_matrix R91 -/
  | madd
  /-- 0x32, 42_matrix R92 -/
  | mmul
  /-- 0x40, 43_round R104 -/
  | rsub
  /-- 0x41, 43_round R105 -/
  | rshift
  /-- 0x42, 43_round R106 -/
  | rdiff
  /-- 0x50 + r, 43_round R107 -/
  | raddrc (r : BitVec 3)
  /-- 0x60 + r, 43_round R108 -/
  | round (r : BitVec 3)
  /-- 0x70, 43_round R109 -/
  | rounds
  /-- 0x80, 44_compress_hash R120 -/
  | cmpr
  /-- 0x81, 44_compress_hash R121 -/
  | hinit
  /-- 0x82, 44_compress_hash R122 -/
  | hupd
  /-- 0x83, 44_compress_hash R123 -/
  | hfin
  /-- 0xFF, 45_system R136 -/
  | srst
  deriving DecidableEq, Repr

end Sys2Proof
end

