-- ==== Sys2Proof/WellFormed.lean ====
section
/-!
DEFINITION. Which commands are well formed: the one operand field of the command set is the round index, and its
legal values are 0..5 (30_encoding R47). An ill-formed command still decodes and encodes, and executing it raises
IllegalCommand (R47, R107, R108): it is never refused by the model.
-/

namespace Sys2Proof

/-- The legal round indexes: 0..5 (30_encoding R47). -/
def legalRound (r : BitVec 3) : Bool := decide (r.toNat < 6)

/-- A command is well formed when its round index, if it has one, is legal (30_encoding R47). -/
def Instr.wellFormed : Instr → Bool
  | .raddrc r => legalRound r
  | .round r => legalRound r
  | .nop | .gfadd | .gfmul | .gfinv | .gfdeg | .gfdiv | .sbox | .mzero | .madd | .mmul | .rsub | .rshift
  | .rdiff | .rounds | .cmpr | .hinit | .hupd | .hfin | .srst => true

end Sys2Proof
end

