-- ==== Sys2Proof/Decode.lean ====
section
/-!
DEFINITION. The decoder of command bytes, total on all 256 values (30_encoding R53), and after it the encoder
(30_encoding R46, R48). A command is one byte, and decoding reads nothing but that byte (R50, R53).
-/

namespace Sys2Proof

/-- Why a byte is no command. -/
inductive DecodeError where
  /-- the byte is one of the 221 values outside the opcode map (30_encoding R49); writing it to CMD raises
  IllegalCommand (60_exceptions R144), so nothing in the model stops on it -/
  | illegalCommand (c : Byte)
  deriving DecidableEq, Repr

/-- `Decode(c)` (30_encoding R53): format CR by the top five bits, every other byte in format C0. -/
def decode (c : Byte) : Except DecodeError Instr :=
  match c.extractLsb' 3 5 with
  | 0b01010#5 => .ok (.raddrc (c.extractLsb' 0 3))
  | 0b01100#5 => .ok (.round (c.extractLsb' 0 3))
  | _ =>
    match c with
    | 0x00#8 => .ok .nop
    | 0x10#8 => .ok .gfadd
    | 0x11#8 => .ok .gfmul
    | 0x12#8 => .ok .gfinv
    | 0x13#8 => .ok .gfdeg
    | 0x14#8 => .ok .gfdiv
    | 0x20#8 => .ok .sbox
    | 0x30#8 => .ok .mzero
    | 0x31#8 => .ok .madd
    | 0x32#8 => .ok .mmul
    | 0x40#8 => .ok .rsub
    | 0x41#8 => .ok .rshift
    | 0x42#8 => .ok .rdiff
    | 0x70#8 => .ok .rounds
    | 0x80#8 => .ok .cmpr
    | 0x81#8 => .ok .hinit
    | 0x82#8 => .ok .hupd
    | 0x83#8 => .ok .hfin
    | 0xFF#8 => .ok .srst
    | _ => .error (.illegalCommand c)

/-- The code of a command (30_encoding R48): `op8` in format C0, `op5` above the round index in format CR. -/
def encode : Instr → Byte
  | .nop => 0x00
  | .gfadd => 0x10
  | .gfmul => 0x11
  | .gfinv => 0x12
  | .gfdeg => 0x13
  | .gfdiv => 0x14
  | .sbox => 0x20
  | .mzero => 0x30
  | .madd => 0x31
  | .mmul => 0x32
  | .rsub => 0x40
  | .rshift => 0x41
  | .rdiff => 0x42
  | .raddrc r => 0b01010#5 ++ r
  | .round r => 0b01100#5 ++ r
  | .rounds => 0x70
  | .cmpr => 0x80
  | .hinit => 0x81
  | .hupd => 0x82
  | .hfin => 0x83
  | .srst => 0xFF

/-- The command byte of a table row: the first byte of the `nbits` bits `w`, bit 0 its least significant bit.
Every row of the table is one byte (30_encoding R46), and a later byte would be a later transaction's. -/
def tableByte (nbits w : Nat) : Byte := BitVec.ofNat 8 (w % 2 ^ nbits)

/-- The command the decoder reads from a table word. -/
def decodeTableWord (nbits w : Nat) : Option Instr :=
  match decode (tableByte nbits w) with
  | .ok i => some i
  | .error _ => none

end Sys2Proof
end

