-- ==== Sys2Proof/Machine/State.lean ====
section
/-!
DEFINITION. The state of the machine: the registers of 10_state R12 to R18 and nothing else of the hardware (R22),
the host's pending transactions and what its reads answered (the model's own, notes/assumptions/1.md and 3.md), and
the machine right after reset (10_state R24, 70_reset_and_hazards R161).
MWC has no memory beyond its registers (20_memory R30), so no field holds memory.
-/

namespace Sys2Proof.Machine

/-- The four error conditions of MWC (60_exceptions R140). Raising one is a NEXT state (R147), never a stop. -/
inductive FaultCause where
  /-- code 1, GFDIV with a zero divisor (R141) -/
  | divisionByZero
  /-- code 2, GFDIV with a remainder above 0xFF (R142) -/
  | remainderOverflow
  /-- code 3, GFINV with gcd other than 1; unreachable for the fixed modulus (R143) -/
  | noInverse
  /-- code 4, a byte outside the opcode map, or a round index of 6 or 7 (R144) -/
  | illegalCommand
  deriving DecidableEq, Repr

/-- What can happen at MWC's boundary: the two bus transactions (20_memory R32, R33) and the hardware reset input,
which arrives between two transactions (70_reset_and_hazards R160). -/
inductive HostEvent where
  /-- `BusRead(addr)` -/
  | read (addr : Byte)
  /-- `BusWrite(addr, data)` -/
  | write (addr data : Byte)
  /-- the hardware reset input -/
  | resetInput
  deriving DecidableEq, Repr

/-- The registers: the complete state of MWC (10_state R12 to R18, R22). `CMD` stores nothing (R17). -/
structure Regs where
  /-- field operand A, and the message byte of HUPD (R12) -/
  fa : Byte
  /-- field operand B (R12) -/
  fb : Byte
  /-- field result (R12) -/
  fr : Byte
  /-- degree result: BOT in bit 7, DEG in bits 3..0 (R14) -/
  dg : Byte
  /-- wide operand A, the dividend (R13) -/
  wa : Wide
  /-- wide operand B, the divisor (R13) -/
  wb : Wide
  /-- wide result, the quotient (R13) -/
  wq : Wide
  /-- remainder result (R13) -/
  rm : Byte
  /-- message bytes absorbed, modulo 65536 (R16) -/
  len : Wide
  /-- matrix operand A, row-major (R15) -/
  ma : Block
  /-- matrix operand B, row-major (R15) -/
  mb : Block
  /-- matrix result, row-major (R15) -/
  mr : Block
  /-- chaining value and digest, row-major (R16) -/
  h : Block
  /-- the block being assembled, in message order (R16) -/
  buf : Block
  /-- FAULT in bits 2..0, zeros above (R18) -/
  status : Byte
  deriving DecidableEq, Repr

/-- The state of the machine: the registers, and the two lists by which the model holds the host. -/
structure State where
  /-- the registers of MWC -/
  regs : Regs
  /-- the host's transactions still to come, the next one first (the model's own, notes/assumptions/1.md) -/
  script : List HostEvent
  /-- the bytes the host's reads have answered, the latest first (the model's own, notes/assumptions/3.md) -/
  reads : List Byte
  deriving DecidableEq, Repr

/-- The model's stops with a fault: NONE. Every fault of MWC is a next state with its code in STATUS
(60_exceptions R147), no access faults (20_memory R40) and every sequence of transactions has an outcome
(70_reset_and_hazards R166), so nothing raises one (safe: notes/assumptions/6.md). -/
inductive Fault where
  deriving DecidableEq, Repr

/-- The model's refusals. -/
inductive Refusal where
  /-- raised by an arm of exec whose command has no meaning yet; no arm does (safe: the run ends there) -/
  | notModelled (mnemonic : String)
  deriving DecidableEq, Repr

/-- What one command or one transaction gives. -/
abbrev Result := Host.Outcome State Fault Refusal

/-- Sixteen zero bytes: `Ser(MatZero())` (42_matrix R87), and an empty block buffer. -/
def zeroBlock : Block := Vector.replicate 16 0

/-- Every register at its reset value (10_state R24, 70_reset_and_hazards R161). -/
def resetRegs : Regs where
  fa := 0
  fb := 0
  fr := 0
  dg := 0
  wa := 0
  wb := 0
  wq := 0
  rm := 0
  len := 0
  ma := zeroBlock
  mb := zeroBlock
  mr := zeroBlock
  h := zeroBlock
  buf := zeroBlock
  status := 0

/-- The machine right after reset: every register zero (10_state R24), no transaction issued yet and none answered. -/
def State.reset : State where
  regs := resetRegs
  script := []
  reads := []

end Sys2Proof.Machine
end

