-- ==== Sys2Proof/Machine/FieldArith.lean ====
section
/-!
DEFINITION. The pure functions of GF(2^8): 40_field R60 to R67. Products are computed exactly on naturals and
narrowed once, at the boundary the rule names (R63).
-/

namespace Sys2Proof.Machine

/-- `Add(a, b)`: bitwise exclusive-or (40_field R60). -/
def fieldAdd (a b : Byte) : Byte := a ^^^ b

/-- The `xor` of `u << i` over the i below the third argument with `v[i] = 1`. -/
def clMulBelow (u v : Nat) : Nat → Nat
  | 0 => 0
  | n + 1 => clMulBelow u v n ^^^ (if v.testBit n then u <<< n else 0)

/-- `ClMul(u, v)`, the carry-less product on naturals (40_field R61): every set bit of v lies below `v.log2 + 1`. -/
def clMul (u v : Nat) : Nat := clMulBelow u v (v.log2 + 1)

/-- The unreduced product of two bytes: a wide of degree at most 14 (40_field R61, R63). -/
def rawProduct (a b : Byte) : Wide := BitVec.ofNat 16 (clMul a.toNat b.toNat)

/-- The single reduction boundary from wide to byte (40_field R63): each identity of R62 is applied when its bit of
the UNREDUCED product is set, from degree 8 upward. -/
def reduceWide (p : Wide) : Byte :=
  reductionTable.foldl (fun z e => if p.getLsbD e.1 then z ^^^ e.2 else z) (p.setWidth 8)

/-- `MulMod(a, b)` (40_field R63). -/
def mulMod (a b : Byte) : Byte := reduceWide (rawProduct a b)

/-- `Degree(v)` (40_field R65): the index of the highest set bit, `none` (⊥) for zero. -/
def degree {w : Nat} (v : BitVec w) : Option Nat := if v.toNat = 0 then none else some v.toNat.log2

/-- The division loop of 40_field R66: while the remainder's degree is at least the divisor's, align the leading
terms, add the monomial to the quotient and its multiple of d to the remainder. The first argument bounds the
passes; the degree of r falls in each, so 16 passes always reach the loop's own exit (R66; notes/assumptions/8.md). -/
def divLoop : Nat → Wide → Wide → Wide → Wide × Wide
  | 0, _, q, r => (q, r)
  | fuel + 1, d, q, r =>
    match degree r, degree d with
    | some dr, some dd =>
      if dd ≤ dr then divLoop fuel d (q ^^^ (1 <<< (dr - dd))) (r ^^^ (d <<< (dr - dd))) else (q, r)
    | _, _ => (q, r)

/-- The checks after the loop: a remainder above 0xFF raises RemainderOverflow (40_field R66). -/
def divResult (qr : Wide × Wide) : Except FaultCause (Wide × Byte) :=
  if qr.2.toNat ≤ 0xFF then .ok (qr.1, qr.2.setWidth 8) else .error .remainderOverflow

/-- `LongDivision(n, d)` (40_field R66): quotient and remainder, or a fault; the zero divisor is tested first. -/
def longDivision (n d : Wide) : Except FaultCause (Wide × Byte) :=
  if d = 0 then .error .divisionByZero else divResult (divLoop 16 d 0 n)

/-- The four values the extended-Euclidean loop carries (40_field R67). -/
structure EuclidPair where
  rPrev : Wide
  rCur : Wide
  tPrev : Wide
  tCur : Wide
  deriving DecidableEq, Repr

/-- One pass of 40_field R67 with the quotient and remainder of `r_prev` by `r_cur`. The product is narrowed to the
wide it always fits (R67: the largest coefficient met is 0x012B; notes/assumptions/12.md). -/
def euclidPass (e : EuclidPair) (qr : Wide × Byte) : EuclidPair where
  rPrev := e.rCur
  rCur := qr.2.setWidth 16
  tPrev := e.tCur
  tCur := e.tPrev ^^^ BitVec.ofNat 16 (clMul qr.1.toNat e.tCur.toNat)

/-- The loop of 40_field R67, until the remainder is zero. The first argument bounds the passes: the degree of
`r_cur` falls from 8 in each, so 16 always suffice (notes/assumptions/8.md). -/
def euclidLoop : Nat → EuclidPair → Except FaultCause EuclidPair
  | 0, e => .ok e
  | fuel + 1, e =>
    if e.rCur = 0 then .ok e
    else match longDivision e.rPrev e.rCur with
      | .ok qr => euclidLoop fuel (euclidPass e qr)
      | .error f => .error f

/-- The start pair (a, MODULUS) with coefficients (1, 0) (40_field R67). -/
def euclidStart (a : Byte) : EuclidPair where
  rPrev := a.setWidth 16
  rCur := modulus
  tPrev := 1
  tCur := 0

/-- The gcd test after the loop: a last remainder of degree other than 0 raises NoInverse (40_field R67). -/
def euclidResult (e : EuclidPair) : Except FaultCause Byte :=
  if degree e.rPrev = some 0 then .ok (e.tPrev.setWidth 8) else .error .noInverse

/-- `ModInv(a)` (40_field R67): 0 for 0 by convention, else the inverse, or NoInverse. -/
def modInv (a : Byte) : Except FaultCause Byte :=
  if a = 0 then .ok 0
  else match euclidLoop 16 (euclidStart a) with
    | .ok e => euclidResult e
    | .error f => .error f

end Sys2Proof.Machine
end

