-- ==== Sys2Proof/Machine/Flags.lean ====
section
/-!
DEFINITION. The two flag-like values of MWC (10_state R20): the layout of DG (R14) and of STATUS (R18). No command
sets a condition code.
-/

namespace Sys2Proof.Machine

/-- The value of `DG` for a degree: BOT alone for ⊥, else the degree in bits 3..0 (10_state R14, 40_field R73). -/
def degreeByte : Option Nat → Byte
  | none => 0x80
  | some d => BitVec.ofNat 8 d

/-- The code of a fault (60_exceptions R140). -/
def faultCode : FaultCause → Byte
  | .divisionByZero => 1
  | .remainderOverflow => 2
  | .noInverse => 3
  | .illegalCommand => 4

/-- `STATUS.FAULT`, bits 2..0 (10_state R18). -/
def faultField (status : Byte) : BitVec 3 := status.extractLsb' 0 3

/-- MWC is faulted exactly when `STATUS.FAULT` is not 0 (60_exceptions R148). -/
def faulted (r : Regs) : Bool := faultField r.status != 0

end Sys2Proof.Machine
end

