-- ==== Sys2Proof/Machine/Operands.lean ====
section
/-!
DEFINITION. The operand forms: the round index of format CR (30_encoding R47), the halves of a 16-bit register and
its bus byte order (20_memory R35), the fill index of the block buffer (10_state R16), and the bytes of the register
space by address (20_memory R31). Every other operand of a command is a fixed register (10_state R23).
-/

namespace Sys2Proof.Machine

/-- The low byte of a 16-bit register, at the lower address (20_memory R35). -/
def lowByte (w : Wide) : Byte := w.extractLsb' 0 8

/-- The high byte of a 16-bit register, at the higher address (20_memory R35). -/
def highByte (w : Wide) : Byte := w.extractLsb' 8 8

/-- The 16-bit value `{hi, lo}` (00_scope R6). -/
def joinBytes (hi lo : Byte) : Wide := hi ++ lo

/-- A 16-bit register with its low byte written over the bus, the other half kept (20_memory R33, R35). -/
def withLow (w : Wide) (b : Byte) : Wide := joinBytes (highByte w) b

/-- A 16-bit register with its high byte written over the bus, the other half kept (20_memory R33, R35). -/
def withHigh (w : Wide) (b : Byte) : Wide := joinBytes b (lowByte w)

/-- `LEN[3:0]`, the fill index of BUF (10_state R16). -/
def fillIndex (len : Wide) : Fin 16 := ⟨len.toNat % 16, by omega⟩

/-- The round index operand (30_encoding R47): 0..5 select a round, 6 and 7 raise IllegalCommand with no other
effect. -/
def withRoundIndex (k : BitVec 3) (f : Fin 6 → Regs) : Except FaultCause Regs :=
  if h : k.toNat < 6 then .ok (f ⟨k.toNat, h⟩) else .error .illegalCommand

/-- The host's rights on an address (20_memory R31): read and write, read only, write only, or reserved. -/
inductive Access where
  | rw
  | ro
  | wo
  | reserved
  deriving DecidableEq, Repr

/-- The byte of the register space that an address names (20_memory R31). -/
inductive Location where
  | cmd
  | status
  | fa
  | fb
  | fr
  | dg
  | lenLo
  | lenHi
  | waLo
  | waHi
  | wbLo
  | wbHi
  | wqLo
  | wqHi
  | rm
  | ma (k : Fin 16)
  | mb (k : Fin 16)
  | mr (k : Fin 16)
  | h (k : Fin 16)
  | buf (k : Fin 16)
  | reserved
  deriving DecidableEq, Repr

/-- The single-byte registers, addresses 0x00 to 0x0F (20_memory R31). -/
def lowLocation : Nat → Location
  | 0x0 => .cmd
  | 0x1 => .status
  | 0x2 => .fa
  | 0x3 => .fb
  | 0x4 => .fr
  | 0x5 => .dg
  | 0x6 => .lenLo
  | 0x7 => .lenHi
  | 0x8 => .waLo
  | 0x9 => .waHi
  | 0xA => .wbLo
  | 0xB => .wbHi
  | 0xC => .wqLo
  | 0xD => .wqHi
  | 0xE => .rm
  | _ => .reserved

/-- `addr[3:0]`: which byte of its bank an address names (20_memory R31). -/
def lowNibble (addr : Byte) : Fin 16 := ⟨addr.toNat % 16, by omega⟩

/-- The address map (20_memory R31): the high nibble selects a bank of sixteen, the low nibble a byte of it. -/
def locate (addr : Byte) : Location :=
  match addr.toNat / 16 with
  | 0x0 => lowLocation (addr.toNat % 16)
  | 0x1 => .ma (lowNibble addr)
  | 0x2 => .mb (lowNibble addr)
  | 0x3 => .mr (lowNibble addr)
  | 0x4 => .h (lowNibble addr)
  | 0x5 => .buf (lowNibble addr)
  | _ => .reserved

/-- The rights of each location (20_memory R31, R34). -/
def access : Location → Access
  | .cmd => .wo
  | .status | .fr | .dg | .wqLo | .wqHi | .rm | .mr _ => .ro
  | .fa | .fb | .lenLo | .lenHi | .waLo | .waHi | .wbLo | .wbHi | .ma _ | .mb _ | .h _ | .buf _ => .rw
  | .reserved => .reserved

/-- The byte a read of a location answers (20_memory R31, R32): its content; 0x00 for CMD, which stores
nothing (10_state R17); 0x00 for a reserved address (R34; DESIGN CHOICE among the treatments the spec allows,
notes/assumptions/10.md). -/
def readLocation (r : Regs) : Location → Byte
  | .cmd => 0
  | .status => r.status
  | .fa => r.fa
  | .fb => r.fb
  | .fr => r.fr
  | .dg => r.dg
  | .lenLo => lowByte r.len
  | .lenHi => highByte r.len
  | .waLo => lowByte r.wa
  | .waHi => highByte r.wa
  | .wbLo => lowByte r.wb
  | .wbHi => highByte r.wb
  | .wqLo => lowByte r.wq
  | .wqHi => highByte r.wq
  | .rm => r.rm
  | .ma k => r.ma[k]
  | .mb k => r.mb[k]
  | .mr k => r.mr[k]
  | .h k => r.h[k]
  | .buf k => r.buf[k]
  | .reserved => 0

end Sys2Proof.Machine
end

