-- ==== Sys2Proof/Machine/Ops.lean ====
section
/-!
DEFINITION. The named operations over the registers: one update per register, taking a fault (60_exceptions R147),
reset (10_state R24, 70_reset_and_hazards R160), running a command's effect under the faulted-state gate
(60_exceptions R148), and the plain register write of the bus (20_memory R33).
-/

namespace Sys2Proof.Machine

/-! `<register> <- v` for each register of 10_state R12 to R18 (00_scope R7). -/

def Regs.setFa (r : Regs) (v : Byte) : Regs := { r with fa := v }
def Regs.setFb (r : Regs) (v : Byte) : Regs := { r with fb := v }
def Regs.setFr (r : Regs) (v : Byte) : Regs := { r with fr := v }
def Regs.setDg (r : Regs) (v : Byte) : Regs := { r with dg := v }
def Regs.setWa (r : Regs) (v : Wide) : Regs := { r with wa := v }
def Regs.setWb (r : Regs) (v : Wide) : Regs := { r with wb := v }
def Regs.setWq (r : Regs) (v : Wide) : Regs := { r with wq := v }
def Regs.setRm (r : Regs) (v : Byte) : Regs := { r with rm := v }
def Regs.setLen (r : Regs) (v : Wide) : Regs := { r with len := v }
def Regs.setMa (r : Regs) (v : Block) : Regs := { r with ma := v }
def Regs.setMb (r : Regs) (v : Block) : Regs := { r with mb := v }
def Regs.setMr (r : Regs) (v : Block) : Regs := { r with mr := v }
def Regs.setH (r : Regs) (v : Block) : Regs := { r with h := v }
def Regs.setBuf (r : Regs) (v : Block) : Regs := { r with buf := v }
def Regs.setStatus (r : Regs) (v : Byte) : Regs := { r with status := v }

/-- Fault entry (60_exceptions R147): STATUS takes the code, upper bits 0, and nothing else changes. -/
def takeFault (r : Regs) (f : FaultCause) : Regs := r.setStatus (faultCode f)

/-- The registers after an effect that may raise a fault: the fault is taken on the registers as they were before
the effect, so it is precise (60_exceptions R147). -/
def settle (r : Regs) : Except FaultCause Regs → Regs
  | .ok r' => r'
  | .error f => takeFault r f

/-- The state with other registers; the host's side is kept. -/
def State.setRegs (s : State) (r : Regs) : State := { s with regs := r }

/-- The one way a command acts: in the faulted state nothing changes (60_exceptions R148, 20_memory R33), else the
effect's registers, or its fault taken. -/
def State.command (s : State) (effect : Regs → Except FaultCause Regs) : Result :=
  .next (if faulted s.regs then s else s.setRegs (settle s.regs (effect s.regs)))

/-- Reset, one transition for the reset input and for SRST (70_reset_and_hazards R160): every register at its reset
value, in the faulted state too. -/
def State.resetAll (s : State) : State := s.setRegs resetRegs

/-- A location's byte written by the host: a read-write byte takes the data, every other location ignores it
(20_memory R31, R33, R34). -/
def writeLocation (r : Regs) (d : Byte) : Location → Regs
  | .fa => r.setFa d
  | .fb => r.setFb d
  | .lenLo => r.setLen (withLow r.len d)
  | .lenHi => r.setLen (withHigh r.len d)
  | .waLo => r.setWa (withLow r.wa d)
  | .waHi => r.setWa (withHigh r.wa d)
  | .wbLo => r.setWb (withLow r.wb d)
  | .wbHi => r.setWb (withHigh r.wb d)
  | .ma k => r.setMa (r.ma.set k d)
  | .mb k => r.setMb (r.mb.set k d)
  | .h k => r.setH (r.h.set k d)
  | .buf k => r.setBuf (r.buf.set k d)
  | .cmd | .status | .fr | .dg | .wqLo | .wqHi | .rm | .mr _ | .reserved => r

/-- A register write of the host: ignored in the faulted state (20_memory R33, 60_exceptions R148). -/
def State.storeByte (s : State) (loc : Location) (d : Byte) : State :=
  if faulted s.regs then s else s.setRegs (writeLocation s.regs d loc)

/-- The host is answered one byte. -/
def State.answer (s : State) (b : Byte) : State := { s with reads := b :: s.reads }

/-- The host's next transaction is taken from its list. -/
def State.withScript (s : State) (rest : List HostEvent) : State := { s with script := rest }

/-- The host issues one transaction before those it still has to issue. -/
def State.issue (s : State) (e : HostEvent) : State := { s with script := e :: s.script }

end Sys2Proof.Machine
end

