-- ==== Sys2Proof/Machine/Field.lean ====
section
/-!
DEFINITION. The field arithmetic family (40_field R70 to R74): each command's effect on the registers, and the
command.
-/

namespace Sys2Proof.Machine

/-- `FR <- Add(FA, FB)` (40_field R70). -/
def gfaddEffect (r : Regs) : Except FaultCause Regs := .ok (r.setFr (fieldAdd r.fa r.fb))

/-- GFADD (40_field R70). -/
def execGfadd (s : State) : Result := s.command gfaddEffect

/-- `FR <- MulMod(FA, FB)` (40_field R71). -/
def gfmulEffect (r : Regs) : Except FaultCause Regs := .ok (r.setFr (mulMod r.fa r.fb))

/-- GFMUL (40_field R71). -/
def execGfmul (s : State) : Result := s.command gfmulEffect

/-- `FR <- ModInv(FA)`; a NoInverse leaves FR unwritten (40_field R72). -/
def gfinvEffect (r : Regs) : Except FaultCause Regs :=
  match modInv r.fa with
  | .ok y => .ok (r.setFr y)
  | .error f => .error f

/-- GFINV (40_field R72). -/
def execGfinv (s : State) : Result := s.command gfinvEffect

/-- `DG <- 0x80` for the zero polynomial, else its degree (40_field R73). -/
def gfdegEffect (r : Regs) : Except FaultCause Regs := .ok (r.setDg (degreeByte (degree r.wa)))

/-- GFDEG (40_field R73). -/
def execGfdeg (s : State) : Result := s.command gfdegEffect

/-- `(WQ, RM) <- LongDivision(WA, WB)`; on a fault neither is written (40_field R74). -/
def gfdivEffect (r : Regs) : Except FaultCause Regs :=
  match longDivision r.wa r.wb with
  | .ok qr => .ok ((r.setWq qr.1).setRm qr.2)
  | .error f => .error f

/-- GFDIV (40_field R74). -/
def execGfdiv (s : State) : Result := s.command gfdivEffect

end Sys2Proof.Machine
end

