-- ==== Sys2Proof/Config.lean ====
section
/-!
DEFINITION. What an implementation fixes and the spec leaves open: the round constants RC (43_round R96,
92_eei_decisions D18). Everything else the spec fixes stands in Machine/Tables.lean.
-/

namespace Sys2Proof

/-- A value of the parameter `RC : {0..5} × {0..3} → byte` (43_round R96): row r is consumed by round r. -/
abbrev RoundConstants := Fin 6 → Fin 4 → Byte

/-- The round constants of the machine: OPEN in the spec (43_round R96, 92 D18), so a constant with no body.
Nothing can be proved of its 24 values, and every statement about a command that reads it holds for every value.
DESIGN CHOICE, safe: notes/assumptions/4.md. -/
opaque Config.rc : RoundConstants

end Sys2Proof
end

