-- ==== Sys2Proof/Machine/MatrixArith.lean ====
section
/-!
DEFINITION. The pure functions on 4×4 matrices (42_matrix R86 to R89). A Matrix4 is held as its serialisation, the
16 bytes of a matrix register; `cell` reads it as a matrix and `ofCells` builds it from one, so `Mat` and `Ser` of
R86 are these two.
-/

namespace Sys2Proof.Machine

/-- `Mat(b)[i][j] = b[4·i + j]`: row-major (42_matrix R86). -/
def cell (b : Block) (i j : Fin 4) : Byte := b[4 * i.val + j.val]

/-- `Ser(A)`: byte k of the register is cell (k div 4, k mod 4) (42_matrix R86). -/
def ofCells (f : Fin 4 → Fin 4 → Byte) : Block :=
  Vector.ofFn fun k : Fin 16 => f ⟨k.val / 4, by omega⟩ ⟨k.val % 4, by omega⟩

/-- `MatAdd(A, B)`: element-wise field addition (42_matrix R88). -/
def matAdd (a b : Block) : Block := ofCells fun i j => fieldAdd (cell a i j) (cell b i j)

/-- The field sum over k of `MulMod(f k, g k)`: one output cell of a matrix product (42_matrix R89). -/
def dot (f g : Fin 4 → Byte) : Byte :=
  mulMod (f 0) (g 0) ^^^ mulMod (f 1) (g 1) ^^^ mulMod (f 2) (g 2) ^^^ mulMod (f 3) (g 3)

/-- `MatMul(A, B)`: row i of the left operand meets column j of the right (42_matrix R89). -/
def matMul (a b : Block) : Block := ofCells fun i j => dot (fun k => cell a i k) (fun k => cell b k j)

/-- The diffusion matrix `T` as a Matrix4 (43_round R95). -/
def diffusionMatrix : Block := ofCells diffusionCell

end Sys2Proof.Machine
end

