-- ==== Sys2Proof/Machine/RoundArith.lean ====
section
/-!
DEFINITION. The round function as pure functions (43_round R97 to R103). Every function that reads the round
constants takes them as an argument (R96): the machine's commands pass Config.rc.
-/

namespace Sys2Proof.Machine

/-- `Substitute(X)` (43_round R97). -/
def substitute (x : Block) : Block := ofCells fun i j => subByte (cell x i j)

/-- `Shift(X)`: row i rotated left by i places, `Y[i][j] = X[i][(j + i) mod 4]` (43_round R98). -/
def shiftRows (x : Block) : Block := ofCells fun i j => cell x i (j + i)

/-- `Diffuse(X) = MatMul(T, X)`, T on the left (43_round R99). -/
def diffuse (x : Block) : Block := matMul diffusionMatrix x

/-- `AddRoundConstant(X, r)`: row r of RC into row 0, the other rows as they were (43_round R100). -/
def addRoundConstant (rc : RoundConstants) (x : Block) (r : Fin 6) : Block :=
  ofCells fun i j => if i = 0 then fieldAdd (cell x i j) (rc r j) else cell x i j

/-- `Mix(M, K) = MatAdd(M, K)` (43_round R101). -/
def mix (m k : Block) : Block := matAdd m k

/-- The new key-schedule matrix of one round, steps 1 to 4 (43_round R102). -/
def roundKey (rc : RoundConstants) (k : Block) (r : Fin 6) : Block :=
  addRoundConstant rc (diffuse (shiftRows (substitute k))) r

/-- `Round(K, M, r)` (43_round R102): the pair (K', M'); M is mixed with the NEW K. -/
def roundPair (rc : RoundConstants) (km : Block × Block) (r : Fin 6) : Block × Block :=
  (roundKey rc km.1 r, mix (diffuse (shiftRows (substitute km.2))) (roundKey rc km.1 r))

/-- The rounds in their order, 0 to 5 (43_round R103). -/
def roundOrder : List (Fin 6) := [0, 1, 2, 3, 4, 5]

/-- `RoundFunction(K0, M0)`: six rounds, the final K discarded (43_round R103). -/
def roundFunction (rc : RoundConstants) (k0 m0 : Block) : Block :=
  (roundOrder.foldl (roundPair rc) (k0, m0)).2

end Sys2Proof.Machine
end

