-- ==== Sys2Proof/Machine/HashArith.lean ====
section
/-!
DEFINITION. Compression, padding and the hash on whole byte sequences (44_compress_hash R115 to R119): the source's
own definitions, which the streaming commands of Machine/Hash.lean compute byte by byte.
-/

namespace Sys2Proof.Machine

/-- `BlockToMatrix(W)`: column-major placement, `A[row][col] = W[row + 4·col]` (44_compress_hash R115). -/
def blockToMatrix (w : Block) : Block := ofCells fun row col => w[row.val + 4 * col.val]

/-- `Compress(H, W)`: feed-in A + H, six rounds keyed by H, feed-forward M6 + A + H (44_compress_hash R116). -/
def compress (rc : RoundConstants) (h w : Block) : Block :=
  matAdd (matAdd (roundFunction rc h (matAdd (blockToMatrix w) h)) (blockToMatrix w)) h

/-- The number of padded blocks of a message of length l: `((l + 1) div 16) + 1` (44_compress_hash R117). -/
def paddedBlocks (l : Nat) : Nat := (l + 1) / 16 + 1

/-- The high byte of the 16-bit length (44_compress_hash R117, R118: l modulo 65536). -/
def lengthHigh (l : Nat) : Byte := BitVec.ofNat 8 (l % 65536 / 256)

/-- The low byte of the 16-bit length (44_compress_hash R117, R118). -/
def lengthLow (l : Nat) : Byte := BitVec.ofNat 8 (l % 65536 % 256)

/-- The number of padded bytes, `total` of 44_compress_hash R117. -/
def paddedLength (l : Nat) : Nat := 16 * paddedBlocks l

/-- The message followed by its zero fill to whole blocks (44_compress_hash R117). -/
def zeroFill (msg : List Byte) : List Byte := msg ++ List.replicate (paddedLength msg.length - msg.length) 0

/-- `Pad(msg)`: zero fill, then the big-endian length in the last two bytes (44_compress_hash R117). -/
def pad (msg : List Byte) : List Byte :=
  ((zeroFill msg).set (paddedLength msg.length - 2) (lengthHigh msg.length)).set (paddedLength msg.length - 1)
    (lengthLow msg.length)

/-- Block k of a padded buffer: bytes 16k to 16k + 15 (44_compress_hash R119). -/
def blockAt (p : List Byte) (k : Nat) : Block := Vector.ofFn fun j : Fin 16 => p.getD (16 * k + j.val) 0

/-- The chaining value after the first n blocks of p, from the zero matrix (44_compress_hash R119). -/
def foldBlocks (rc : RoundConstants) (p : List Byte) : Nat → Block
  | 0 => zeroBlock
  | n + 1 => compress rc (foldBlocks rc p n) (blockAt p n)

/-- `Hash(msg)`: pad, fold, serialise row-major (44_compress_hash R119). -/
def hashOf (rc : RoundConstants) (msg : List Byte) : Block := foldBlocks rc (pad msg) (paddedBlocks msg.length)

end Sys2Proof.Machine
end

