-- ==== Sys2Proof/Machine/Hash.lean ====
section
/-!
DEFINITION. The compression, padding and hash family (44_compress_hash R120 to R123). Statements of HUPD and HFIN
run in order (00_scope R7), so their effects are compositions of the small steps below.
-/

namespace Sys2Proof.Machine

/-- `H <- Ser(Compress(Mat(H), BUF))` (44_compress_hash R120). -/
def foldBuffer (rc : RoundConstants) (r : Regs) : Regs := r.setH (compress rc r.h r.buf)

/-- `BUF[k] <- 0x00` for k = 0..15. -/
def clearBuffer (r : Regs) : Regs := r.setBuf zeroBlock

/-- The block with its bytes from the fill index on set to zero (44_compress_hash R123). -/
def zeroFrom (f : Fin 16) (b : Block) : Block := Vector.ofFn fun k : Fin 16 => if k < f then b[k] else 0

/-- The block with the big-endian 16-bit length in its last two bytes (44_compress_hash R123, 20_memory R36). -/
def withLength (len : Wide) (b : Block) : Block := (b.set 14 (highByte len)).set 15 (lowByte len)

/-- CMPR's effect: BUF and LEN stay (44_compress_hash R120). -/
def cmprEffect (rc : RoundConstants) (r : Regs) : Except FaultCause Regs := .ok (foldBuffer rc r)

/-- CMPR (44_compress_hash R120). -/
def execCmpr (s : State) : Result := s.command (cmprEffect Config.rc)

/-- `H`, `BUF` and `LEN` cleared (44_compress_hash R121). -/
def hinitEffect (r : Regs) : Except FaultCause Regs := .ok ((clearBuffer (r.setH zeroBlock)).setLen 0)

/-- HINIT (44_compress_hash R121). -/
def execHinit (s : State) : Result := s.command hinitEffect

/-- The first two statements of HUPD: store the byte, count it modulo 65536 (44_compress_hash R122). -/
def absorbByte (r : Regs) : Regs := (r.setBuf (r.buf.set (fillIndex r.len) r.fa)).setLen (r.len + 1)

/-- The third statement of HUPD: a block just completed is folded and the buffer cleared (44_compress_hash R122). -/
def foldIfFull (rc : RoundConstants) (r : Regs) : Regs :=
  if fillIndex r.len = 0 then clearBuffer (foldBuffer rc r) else r

/-- HUPD's effect (44_compress_hash R122). -/
def hupdEffect (rc : RoundConstants) (r : Regs) : Except FaultCause Regs := .ok (foldIfFull rc (absorbByte r))

/-- HUPD (44_compress_hash R122). -/
def execHupd (s : State) : Result := s.command (hupdEffect Config.rc)

/-- The zero fill of HFIN from the fill index on (44_compress_hash R123). -/
def fillTail (r : Regs) : Regs := r.setBuf (zeroFrom (fillIndex r.len) r.buf)

/-- The first statements of HFIN: zero fill, and with 15 bytes in the buffer, no room for the length, one fold more
(44_compress_hash R123). -/
def finishTail (rc : RoundConstants) (r : Regs) : Regs :=
  if fillIndex r.len = 15 then clearBuffer (foldBuffer rc (fillTail r)) else fillTail r

/-- The last statements of HFIN: the length bytes, the final fold, BUF and LEN cleared (44_compress_hash R123). -/
def finishLength (rc : RoundConstants) (r : Regs) : Regs :=
  (clearBuffer (foldBuffer rc (r.setBuf (withLength r.len r.buf)))).setLen 0

/-- HFIN's effect (44_compress_hash R123). -/
def hfinEffect (rc : RoundConstants) (r : Regs) : Except FaultCause Regs := .ok (finishLength rc (finishTail rc r))

/-- HFIN (44_compress_hash R123). -/
def execHfin (s : State) : Result := s.command (hfinEffect Config.rc)

end Sys2Proof.Machine
end

