-- ==== Sys2Proof/Machine/Matrix.lean ====
section
/-!
DEFINITION. The matrix family (42_matrix R90 to R92).
-/

namespace Sys2Proof.Machine

/-- `MR <- Ser(MatZero())` (42_matrix R90). -/
def mzeroEffect (r : Regs) : Except FaultCause Regs := .ok (r.setMr zeroBlock)

/-- MZERO (42_matrix R90). -/
def execMzero (s : State) : Result := s.command mzeroEffect

/-- `MR <- Ser(MatAdd(Mat(MA), Mat(MB)))` (42_matrix R91). -/
def maddEffect (r : Regs) : Except FaultCause Regs := .ok (r.setMr (matAdd r.ma r.mb))

/-- MADD (42_matrix R91). -/
def execMadd (s : State) : Result := s.command maddEffect

/-- `MR <- Ser(MatMul(Mat(MA), Mat(MB)))`, MA on the left (42_matrix R92). -/
def mmulEffect (r : Regs) : Except FaultCause Regs := .ok (r.setMr (matMul r.ma r.mb))

/-- MMUL (42_matrix R92). -/
def execMmul (s : State) : Result := s.command mmulEffect

end Sys2Proof.Machine
end

