-- ==== Sys2Proof/Machine/Round.lean ====
section
/-!
DEFINITION. The round function family (43_round R104 to R109). An effect that reads the round constants takes them
as an argument (R96), and the command passes Config.rc.
-/

namespace Sys2Proof.Machine

/-- `MR <- Ser(Substitute(Mat(MA)))` (43_round R104). -/
def rsubEffect (r : Regs) : Except FaultCause Regs := .ok (r.setMr (substitute r.ma))

/-- RSUB (43_round R104). -/
def execRsub (s : State) : Result := s.command rsubEffect

/-- `MR <- Ser(Shift(Mat(MA)))` (43_round R105). -/
def rshiftEffect (r : Regs) : Except FaultCause Regs := .ok (r.setMr (shiftRows r.ma))

/-- RSHIFT (43_round R105). -/
def execRshift (s : State) : Result := s.command rshiftEffect

/-- `MR <- Ser(Diffuse(Mat(MA)))` (43_round R106). -/
def rdiffEffect (r : Regs) : Except FaultCause Regs := .ok (r.setMr (diffuse r.ma))

/-- RDIFF (43_round R106). -/
def execRdiff (s : State) : Result := s.command rdiffEffect

/-- `MR <- Ser(AddRoundConstant(Mat(MA), k))`, IllegalCommand for k = 6, 7 (43_round R107). -/
def raddrcEffect (rc : RoundConstants) (k : BitVec 3) (r : Regs) : Except FaultCause Regs :=
  withRoundIndex k fun i => r.setMr (addRoundConstant rc r.ma i)

/-- RADDRC k (43_round R107). -/
def execRaddrc (k : BitVec 3) (s : State) : Result := s.command (raddrcEffect Config.rc k)

/-- `(MA, MB) <- Round(MA, MB, k)` in place, both from their values at the start; IllegalCommand for k = 6, 7
(43_round R108). -/
def roundEffect (rc : RoundConstants) (k : BitVec 3) (r : Regs) : Except FaultCause Regs :=
  withRoundIndex k fun i => (r.setMa (roundPair rc (r.ma, r.mb) i).1).setMb (roundPair rc (r.ma, r.mb) i).2

/-- ROUND k (43_round R108). -/
def execRound (k : BitVec 3) (s : State) : Result := s.command (roundEffect Config.rc k)

/-- `MR <- Ser(RoundFunction(Mat(MA), Mat(MB)))`; MA and MB unchanged (43_round R109). -/
def roundsEffect (rc : RoundConstants) (r : Regs) : Except FaultCause Regs :=
  .ok (r.setMr (roundFunction rc r.ma r.mb))

/-- ROUNDS (43_round R109). -/
def execRounds (s : State) : Result := s.command (roundsEffect Config.rc)

end Sys2Proof.Machine
end

