-- ==== Sys2Proof/Machine/Sbox.lean ====
section
/-!
DEFINITION. The SBOX command (41_sbox R84).
-/

namespace Sys2Proof.Machine

/-- `FR <- SBOX[FA]`, the table of 41_sbox R83 (R84). -/
def sboxEffect (r : Regs) : Except FaultCause Regs := .ok (r.setFr (subByte r.fa))

/-- SBOX (41_sbox R84). -/
def execSbox (s : State) : Result := s.command sboxEffect

end Sys2Proof.Machine
end

