-- ==== Sys2Proof/Machine/System.lean ====
section
/-!
DEFINITION. The system family (45_system): NOP and SRST.
-/

namespace Sys2Proof.Machine

/-- NOP computes nothing; no register changes, STATUS included (45_system R135). -/
def nopEffect (r : Regs) : Except FaultCause Regs := .ok r

/-- NOP (45_system R135). -/
def execNop (s : State) : Result := s.command nopEffect

/-- SRST: every register takes its reset value; the one command that executes in the faulted state too
(45_system R136, 60_exceptions R148). -/
def execSrst (s : State) : Result := .next s.resetAll

end Sys2Proof.Machine
end

