-- ==== Sys2Proof/Machine/Dispatch.lean ====
section
/-!
DEFINITION. One arm per command of spec/opcode_table.json, in the table's order (30_encoding R48): each is one
direct call of the command's meaning.
-/

namespace Sys2Proof.Machine

/-- The execution of a decoded command (30_encoding R53). -/
def exec (i : Instr) (s : State) : Host.Outcome State Fault Refusal :=
  match i with
  | .nop => Sys2Proof.Machine.execNop s
  | .gfadd => Sys2Proof.Machine.execGfadd s
  | .gfmul => Sys2Proof.Machine.execGfmul s
  | .gfinv => Sys2Proof.Machine.execGfinv s
  | .gfdeg => Sys2Proof.Machine.execGfdeg s
  | .gfdiv => Sys2Proof.Machine.execGfdiv s
  | .sbox => Sys2Proof.Machine.execSbox s
  | .mzero => Sys2Proof.Machine.execMzero s
  | .madd => Sys2Proof.Machine.execMadd s
  | .mmul => Sys2Proof.Machine.execMmul s
  | .rsub => Sys2Proof.Machine.execRsub s
  | .rshift => Sys2Proof.Machine.execRshift s
  | .rdiff => Sys2Proof.Machine.execRdiff s
  | .raddrc r => Sys2Proof.Machine.execRaddrc r s
  | .round r => Sys2Proof.Machine.execRound r s
  | .rounds => Sys2Proof.Machine.execRounds s
  | .cmpr => Sys2Proof.Machine.execCmpr s
  | .hinit => Sys2Proof.Machine.execHinit s
  | .hupd => Sys2Proof.Machine.execHupd s
  | .hfin => Sys2Proof.Machine.execHfin s
  | .srst => Sys2Proof.Machine.execSrst s

end Sys2Proof.Machine
end

