-- ==== Sys2Proof/Machine/Bus.lean ====
section
/-!
DEFINITION. The two bus primitives (20_memory R32, R33), the reset input (70_reset_and_hazards R160), and how one
event of the host is carried out whole (00_scope R8). The faulted-state gate of R33 stands in State.command and
State.storeByte, through which every write but SRST goes (notes/assumptions/7.md).
-/

namespace Sys2Proof.Machine

/-- `BusRead(addr)`: the byte it returns; it changes no register (20_memory R32). -/
def busRead (addr : Byte) (s : State) : Byte := readLocation s.regs (locate addr)

/-- A byte outside the opcode map raises IllegalCommand and executes nothing (60_exceptions R144). -/
def illegalEffect (_ : Regs) : Except FaultCause Regs := .error .illegalCommand

/-- A write to CMD executes the command the byte encodes (20_memory R33, 30_encoding R49, R53). -/
def writeCommand (c : Byte) (s : State) : Result :=
  match decode c with
  | .ok i => exec i s
  | .error _ => s.command illegalEffect

/-- `BusWrite(addr, data)` (20_memory R33): CMD executes a command, any other address is a register write. -/
def busWrite (addr data : Byte) (s : State) : Result :=
  match locate addr with
  | .cmd => writeCommand data s
  | loc => .next (s.storeByte loc data)

/-- One event of the host, carried out whole (00_scope R8, 20_memory R38). -/
def carryOut (e : HostEvent) (s : State) : Result :=
  match e with
  | .read addr => .next (s.answer (busRead addr s))
  | .write addr data => busWrite addr data s
  | .resetInput => .next s.resetAll

/-- One step: the host's next event, taken from its list and carried out; with no event, no state changes
(00_scope R8; notes/assumptions/2.md). -/
def hostStep (s : State) : Result :=
  match s.script with
  | [] => .next s
  | e :: rest => carryOut e (s.withScript rest)

/-- The host writes a command byte to CMD as its next transaction (30_encoding R46). -/
def issueCommand (s : State) (c : Byte) : State := s.issue (.write 0x00 c)

end Sys2Proof.Machine
end

