-- ==== Sys2Proof/Machine/Step.lean ====
section
/-!
DEFINITION. The step of the machine, one bus transaction (00_scope R8), and the state in which a given command is
the next transaction.
-/

namespace Sys2Proof.Machine

/-- One step of the machine: one event of the host (00_scope R8). -/
def step (s : State) : Host.Outcome State Fault Refusal := hostStep s

/-- `s` with the command of a table word as the host's next transaction, a write to CMD (30_encoding R46): MWC fetches
nothing, its commands come from the host (20_memory R44; notes/assumptions/1.md). -/
def State.withFetchWord (s : State) (nbits w : Nat) : State := issueCommand s (tableByte nbits w)

end Sys2Proof.Machine
end

