-- ==== Sys2Proof/Machine/Footprint.lean ====
section
/-!
DEFINITION. Register use per command, the table of 10_state R23: what a command's result depends on and what it may
write when it does not fault. It is an index to the meanings, and statements compare the two.
-/

namespace Sys2Proof.Machine

/-- The registers by name (10_state R12 to R18). -/
inductive RegName where
  | fa
  | fb
  | fr
  | dg
  | wa
  | wb
  | wq
  | rm
  | len
  | ma
  | mb
  | mr
  | h
  | buf
  | status
  deriving DecidableEq, Repr

/-- Two register sets agree on one register. -/
def agree (r r' : Regs) : RegName → Bool
  | .fa => decide (r.fa = r'.fa)
  | .fb => decide (r.fb = r'.fb)
  | .fr => decide (r.fr = r'.fr)
  | .dg => decide (r.dg = r'.dg)
  | .wa => decide (r.wa = r'.wa)
  | .wb => decide (r.wb = r'.wb)
  | .wq => decide (r.wq = r'.wq)
  | .rm => decide (r.rm = r'.rm)
  | .len => decide (r.len = r'.len)
  | .ma => decide (r.ma = r'.ma)
  | .mb => decide (r.mb = r'.mb)
  | .mr => decide (r.mr = r'.mr)
  | .h => decide (r.h = r'.h)
  | .buf => decide (r.buf = r'.buf)
  | .status => decide (r.status = r'.status)

/-- The column "reads" of 10_state R23; the round constants, which it names too, are no register. -/
def readSet : Instr → List RegName
  | .nop => []
  | .gfadd => [.fa, .fb]
  | .gfmul => [.fa, .fb]
  | .gfinv => [.fa]
  | .gfdeg => [.wa]
  | .gfdiv => [.wa, .wb]
  | .sbox => [.fa]
  | .mzero => []
  | .madd => [.ma, .mb]
  | .mmul => [.ma, .mb]
  | .rsub => [.ma]
  | .rshift => [.ma]
  | .rdiff => [.ma]
  | .raddrc _ => [.ma]
  | .round _ => [.ma, .mb]
  | .rounds => [.ma, .mb]
  | .cmpr => [.h, .buf]
  | .hinit => []
  | .hupd => [.fa, .len, .buf, .h]
  | .hfin => [.len, .buf, .h]
  | .srst => []

/-- The column "writes" of 10_state R23. -/
def writeSet : Instr → List RegName
  | .nop => []
  | .gfadd => [.fr]
  | .gfmul => [.fr]
  | .gfinv => [.fr]
  | .gfdeg => [.dg]
  | .gfdiv => [.wq, .rm]
  | .sbox => [.fr]
  | .mzero => [.mr]
  | .madd => [.mr]
  | .mmul => [.mr]
  | .rsub => [.mr]
  | .rshift => [.mr]
  | .rdiff => [.mr]
  | .raddrc _ => [.mr]
  | .round _ => [.ma, .mb]
  | .rounds => [.mr]
  | .cmpr => [.h]
  | .hinit => [.h, .buf, .len]
  | .hupd => [.buf, .len, .h]
  | .hfin => [.h, .buf, .len]
  | .srst => [.fa, .fb, .fr, .dg, .wa, .wb, .wq, .rm, .len, .ma, .mb, .mr, .h, .buf, .status]

end Sys2Proof.Machine
end

