-- ==== Sys2Proof/Machine/Script.lean ====
section
/-!
DEFINITION. The host-script syntax of 30_encoding R55 and R56: each line and pseudo-instruction as the list of bus
transactions it stands for.
-/

namespace Sys2Proof.Machine

/-- The address of a named byte of the register space (20_memory R31); 0x0F, the first of them, for `reserved`. -/
def addressOf : Location → Byte
  | .cmd => 0x00
  | .status => 0x01
  | .fa => 0x02
  | .fb => 0x03
  | .fr => 0x04
  | .dg => 0x05
  | .lenLo => 0x06
  | .lenHi => 0x07
  | .waLo => 0x08
  | .waHi => 0x09
  | .wbLo => 0x0A
  | .wbHi => 0x0B
  | .wqLo => 0x0C
  | .wqHi => 0x0D
  | .rm => 0x0E
  | .reserved => 0x0F
  | .ma k => 0x10 + BitVec.ofNat 8 k.val
  | .mb k => 0x20 + BitVec.ofNat 8 k.val
  | .mr k => 0x30 + BitVec.ofNat 8 k.val
  | .h k => 0x40 + BitVec.ofNat 8 k.val
  | .buf k => 0x50 + BitVec.ofNat 8 k.val

/-- `WR <reg>, <byte>` (30_encoding R55). -/
def wr (loc : Location) (b : Byte) : HostEvent := .write (addressOf loc) b

/-- `RD <reg>` (30_encoding R55). -/
def rd (loc : Location) : HostEvent := .read (addressOf loc)

/-- `CMD <mnemonic> [r]` (30_encoding R55). -/
def cmd (i : Instr) : HostEvent := .write 0x00 (encode i)

/-- The 16-bit registers of the host-script syntax (30_encoding R56). -/
inductive WideReg where
  | wa
  | wb
  | wq
  | len
  deriving DecidableEq, Repr

/-- The low half, at the lower address (20_memory R35). -/
def lowHalf : WideReg → Location
  | .wa => .waLo
  | .wb => .wbLo
  | .wq => .wqLo
  | .len => .lenLo

/-- The high half, at the higher address (20_memory R35). -/
def highHalf : WideReg → Location
  | .wa => .waHi
  | .wb => .wbHi
  | .wq => .wqHi
  | .len => .lenHi

/-- `WRW <reg16>, <wide>`: low half, then high half (30_encoding R56). -/
def wrw (reg : WideReg) (v : Wide) : List HostEvent := [wr (lowHalf reg) (lowByte v), wr (highHalf reg) (highByte v)]

/-- `RDW <reg16>`: low half, then high half (30_encoding R56). -/
def rdw (reg : WideReg) : List HostEvent := [rd (lowHalf reg), rd (highHalf reg)]

/-- `WRM <mreg>, b0 ... b15`, the register given by its indexed locations (30_encoding R56). -/
def wrm (reg : Fin 16 → Location) (b : Block) : List HostEvent := (List.finRange 16).map fun k => wr (reg k) b[k]

/-- `RDM <mreg>` (30_encoding R56). -/
def rdm (reg : Fin 16 → Location) : List HostEvent := (List.finRange 16).map fun k => rd (reg k)

/-- `ABSORB b` (30_encoding R56). -/
def absorb (b : Byte) : List HostEvent := [wr .fa b, cmd .hupd]

/-- The command sequence of 44_compress_hash R124: HINIT, each byte absorbed in order, HFIN. -/
def hashSequence (msg : List Byte) : List HostEvent := cmd .hinit :: (msg.flatMap absorb ++ [cmd .hfin])

/-- `HASH b0 ... b(L-1)`: the sequence of R124, then `RDM H` (30_encoding R56). -/
def hashScript (msg : List Byte) : List HostEvent := hashSequence msg ++ rdm .h

end Sys2Proof.Machine
end

