-- ==== Sys2Proof/Safety.lean ====
section
/-!
DEFINITION. What the statements call a legal register content (10_state R25), a safe run (no fault recorded) and the
hash path (60_exceptions R157).
-/

namespace Sys2Proof.Machine

/-- `STATUS[7:3]` is 0 and FAULT is one of 0..4 (10_state R18, R25). -/
def legalStatus (b : Byte) : Bool := decide (b.toNat ≤ 4)

/-- `DG` is one of 0x00..0x0F, 0x80 (10_state R14, R25). -/
def legalDegree (b : Byte) : Bool := decide (b.toNat ≤ 0x0F) || decide (b = 0x80)

/-- The invariant of 10_state R25; it constrains no other register. -/
def State.inv (s : State) : Bool := legalStatus s.regs.status && legalDegree s.regs.dg

/-- A safe state records no fault (60_exceptions R148). -/
def State.safe (s : State) : Bool := !faulted s.regs

/-- The commands of 60_exceptions R157, first sentence, and GFINV, which its second sentence adds. -/
def hashPathCommand : Instr → Bool
  | .raddrc r => legalRound r
  | .round r => legalRound r
  | .gfdiv | .srst => false
  | .nop | .gfadd | .gfmul | .gfinv | .gfdeg | .sbox | .mzero | .madd | .mmul | .rsub | .rshift | .rdiff | .rounds
  | .cmpr | .hinit | .hupd | .hfin => true

/-- The transactions of 60_exceptions R157: reads, writes to read-write registers, and the commands above. -/
def hashPathEvent : HostEvent → Bool
  | .read _ => true
  | .resetInput => false
  | .write addr data =>
    match locate addr with
    | .cmd =>
      match decode data with
      | .ok i => hashPathCommand i
      | .error _ => false
    | loc => decide (access loc = .rw)

/-- The illegal byte values as 30_encoding R49 lists them. -/
def listedIllegal (c : Byte) : Bool :=
  [(0x01, 0x0F), (0x15, 0x1F), (0x21, 0x2F), (0x33, 0x3F), (0x43, 0x4F), (0x58, 0x5F), (0x68, 0x6F), (0x71, 0x7F),
    (0x84, 0xFE)].any fun range => decide (range.1 ≤ c.toNat) && decide (c.toNat ≤ range.2)

end Sys2Proof.Machine
end

