-- ==== Sys2Proof/Certificates/Slice0/Obligations.lean ====
section
/-!
DEFINITION. The statements for the provers: what the numbered rules of spec/ say the machine and its commands do.
In each result statement the next state is written out as the old one with the named registers replaced, so it is the
command's frame too: every register not named, the host's list and the answers to its reads are as before. MWC has no
memory beyond its registers (20_memory R30), so there is no memory frame to state.
A statement that reads the round constants is about Config.rc, of which nothing is known (43_round R96).
-/

open Sys2Proof Sys2Proof.Machine

/-! ## Reset and the invariant -/

/-- 70_reset_and_hazards R161: every register after reset, and CMD, which stores nothing and always reads 0x00. -/
def Obligations.ResetLeavesEveryRegisterZero : Prop :=
  State.reset.regs.fa = 0 ∧ State.reset.regs.fb = 0 ∧ State.reset.regs.fr = 0 ∧ State.reset.regs.dg = 0 ∧
  State.reset.regs.wa = 0 ∧ State.reset.regs.wb = 0 ∧ State.reset.regs.wq = 0 ∧ State.reset.regs.len = 0 ∧
  State.reset.regs.rm = 0 ∧ State.reset.regs.status = 0 ∧
  (∀ k : Fin 16, State.reset.regs.ma[k] = 0 ∧ State.reset.regs.mb[k] = 0 ∧ State.reset.regs.mr[k] = 0 ∧
    State.reset.regs.h[k] = 0 ∧ State.reset.regs.buf[k] = 0) ∧
  ∀ s : State, busRead 0x00 s = 0

/-- 45_system R136, 70_reset_and_hazards R160: SRST and the reset input are one transition, in the faulted state too:
every register takes its reset value, and the host's own lists are kept. -/
def Obligations.SrstAndResetInputRestoreReset : Prop :=
  (∀ s : State, exec .srst s = .next { s with regs := State.reset.regs }) ∧
  (∀ (s : State) (rest : List HostEvent), s.script = .write 0x00 0xFF :: rest →
    step s = .next { s with regs := State.reset.regs, script := rest }) ∧
  (∀ (s : State) (rest : List HostEvent), s.script = .resetInput :: rest →
    step s = .next { s with regs := State.reset.regs, script := rest })

/-- The state after reset has a legal STATUS and a legal DG; the spec's invariant is marked as its own derivation. -/
def Obligations.ResetStateMeetsTheInvariant : Prop := State.reset.inv = true

/-- Every step keeps STATUS among 0..4 and DG among 0x00..0x0F and 0x80 (10_state, Invariants a model may rely on:
marked as derived there), from every state in which they hold, reached or not. -/
def Obligations.EveryStepKeepsStatusAndDegreeLegal : Prop :=
  ∀ s t : State, s.inv = true → step s = .next t → t.inv = true

/-! ## Encoding -/

/-- Decoding the code of any command gives the command back, with every value of the round index. -/
def Obligations.DecodeOfEncodeIsTheCommand : Prop := ∀ i : Instr, decode (encode i) = .ok i

/-- Each byte has one meaning: a byte that decodes is the code of what it decodes to. -/
def Obligations.EncodeOfDecodeIsTheByte : Prop := ∀ (c : Byte) (i : Instr), decode c = .ok i → encode i = c

/-- 30_encoding R49, 60_exceptions R144: the 221 listed bytes and 0x56, 0x57, 0x66, 0x67 raise IllegalCommand in the
non-faulted state and have no other effect; every other byte is a command, and none of those raises it. -/
def Obligations.IllegalBytesAreTheListedOnesAndFault : Prop :=
  ((List.range 256).filter fun n => listedIllegal (BitVec.ofNat 8 n)).length = 221 ∧
  (∀ (s : State) (c : Byte) (rest : List HostEvent), faulted s.regs = false → s.script = .write 0x00 c :: rest →
    listedIllegal c = true ∨ c = 0x56 ∨ c = 0x57 ∨ c = 0x66 ∨ c = 0x67 →
    step s = .next { s with regs := { s.regs with status := 4 }, script := rest }) ∧
  ∀ (s t : State) (c : Byte) (rest : List HostEvent), faulted s.regs = false → s.script = .write 0x00 c :: rest →
    ¬ (listedIllegal c = true ∨ c = 0x56 ∨ c = 0x57 ∨ c = 0x66 ∨ c = 0x67) → step s = .next t →
    (∃ i : Instr, decode c = .ok i) ∧ t.regs.status ≠ 4

/-- The code of every row of the opcode map, written out (30_encoding, The opcode map), and the bytes that decode to
nothing: the listed ones alone. That 0x56, 0x57, 0x66 and 0x67 decode as their mnemonics is the model's choice between
two the spec allows (log entry 11). -/
def Obligations.OpcodeMapRowsDecode : Prop :=
  (∀ c : Byte, listedIllegal c = true ↔ ∀ i : Instr, decode c ≠ .ok i) ∧
  decode 0b01010110 = .ok (.raddrc 6) ∧ decode 0b01010111 = .ok (.raddrc 7) ∧ decode 0b01100110 = .ok (.round 6) ∧
  decode 0b01100111 = .ok (.round 7) ∧
  decode 0b00000000 = .ok .nop ∧ decode 0b00010000 = .ok .gfadd ∧ decode 0b00010001 = .ok .gfmul ∧
  decode 0b00010010 = .ok .gfinv ∧ decode 0b00010011 = .ok .gfdeg ∧ decode 0b00010100 = .ok .gfdiv ∧
  decode 0b00100000 = .ok .sbox ∧ decode 0b00110000 = .ok .mzero ∧ decode 0b00110001 = .ok .madd ∧
  decode 0b00110010 = .ok .mmul ∧ decode 0b01000000 = .ok .rsub ∧ decode 0b01000001 = .ok .rshift ∧
  decode 0b01000010 = .ok .rdiff ∧ decode 0b01010011 = .ok (.raddrc 3) ∧ decode 0b01100101 = .ok (.round 5) ∧
  decode 0b01110000 = .ok .rounds ∧ decode 0b10000000 = .ok .cmpr ∧ decode 0b10000001 = .ok .hinit ∧
  decode 0b10000010 = .ok .hupd ∧ decode 0b10000011 = .ok .hfin ∧ decode 0b11111111 = .ok .srst

/-! ## Steps and the bus -/

/-- A step whose transaction writes a decodable byte to CMD is the execution of that command, the transaction taken
from the host's list and nothing else around it; so is a step from the state `withFetchWord` makes. Two things here are
the model's choice, not the spec's: that it holds in the faulted state too, because the faulted-state test stands inside
exec (log entry 7), and that commands come from a list in the state, at whose head `withFetchWord` puts one (log
entry 1). -/
def Obligations.StepExecutesTheDecodedCommand : Prop :=
  (∀ (s : State) (c : Byte) (rest : List HostEvent) (i : Instr), s.script = .write 0x00 c :: rest →
    decode c = .ok i → step s = exec i { s with script := rest }) ∧
  ∀ (s : State) (nbits w : Nat) (i : Instr), decodeTableWord nbits w = some i →
    step (s.withFetchWord nbits w) = exec i s

/-- A step carries out the first transaction of the host's list: a read answers one byte, a write to any address is
BusWrite, and with no transaction left no state changes (the model's reading of 00_scope, Agents: log entry 2). -/
def Obligations.StepCarriesOutOneTransaction : Prop :=
  (∀ (s : State) (addr : Byte) (rest : List HostEvent), s.script = .read addr :: rest →
    step s = .next { s with script := rest, reads := busRead addr s :: s.reads }) ∧
  (∀ (s : State) (addr data : Byte) (rest : List HostEvent), s.script = .write addr data :: rest →
    step s = busWrite addr data { s with script := rest }) ∧
  ∀ s : State, s.script = [] → step s = .next s

/-- What BusRead returns, in every state; it changes no register (20_memory, The address space and The two bus primitives). The value
0x00 at a reserved address is the model's choice among the treatments the spec allows (log entry 10). -/
def Obligations.BusReadAnswersTheAddressMap : Prop :=
  ∀ s : State,
    busRead 0x01 s = s.regs.status ∧ busRead 0x02 s = s.regs.fa ∧ busRead 0x03 s = s.regs.fb ∧
    busRead 0x04 s = s.regs.fr ∧ busRead 0x05 s = s.regs.dg ∧ busRead 0x0E s = s.regs.rm ∧
    busRead 0x06 s = s.regs.len.extractLsb' 0 8 ∧ busRead 0x07 s = s.regs.len.extractLsb' 8 8 ∧
    busRead 0x08 s = s.regs.wa.extractLsb' 0 8 ∧ busRead 0x09 s = s.regs.wa.extractLsb' 8 8 ∧
    busRead 0x0A s = s.regs.wb.extractLsb' 0 8 ∧ busRead 0x0B s = s.regs.wb.extractLsb' 8 8 ∧
    busRead 0x0C s = s.regs.wq.extractLsb' 0 8 ∧ busRead 0x0D s = s.regs.wq.extractLsb' 8 8 ∧
    (∀ k : Fin 16, busRead (BitVec.ofNat 8 (0x10 + k.val)) s = s.regs.ma[k] ∧
      busRead (BitVec.ofNat 8 (0x20 + k.val)) s = s.regs.mb[k] ∧
      busRead (BitVec.ofNat 8 (0x30 + k.val)) s = s.regs.mr[k] ∧
      busRead (BitVec.ofNat 8 (0x40 + k.val)) s = s.regs.h[k] ∧
      busRead (BitVec.ofNat 8 (0x50 + k.val)) s = s.regs.buf[k]) ∧
    busRead 0x00 s = 0 ∧ (∀ addr : Byte, addr = 0x0F ∨ 0x60 ≤ addr.toNat → busRead addr s = 0) ∧
    ∀ (addr : Byte) (rest : List HostEvent), s.script = .read addr :: rest →
      ∃ t : State, step s = .next t ∧ t.regs = s.regs ∧ t.reads = busRead addr s :: s.reads

/-- 20_memory R33, BusWrite case by case: the faulted state, CMD, a read-write address, any other address. That the
read-write byte alone changes is said through the bus, on which every byte of every register is readable. -/
def Obligations.BusWriteFollowsItsRule : Prop :=
  (∀ (s : State) (addr data : Byte), faulted s.regs = true →
    busWrite addr data s = if addr = 0x00 ∧ data = 0xFF then exec .srst s else .next s) ∧
  (∀ (s : State) (data : Byte) (i : Instr), faulted s.regs = false → decode data = .ok i →
    busWrite 0x00 data s = exec i s) ∧
  (∀ (s : State) (data : Byte), faulted s.regs = false → (∀ i : Instr, decode data ≠ .ok i) →
    busWrite 0x00 data s = .next { s with regs := { s.regs with status := 4 } }) ∧
  (∀ (s : State) (addr data : Byte), faulted s.regs = false → access (locate addr) = .rw →
    ∃ r : Regs, busWrite addr data s = .next { s with regs := r } ∧
      ∀ b : Byte, busRead b { s with regs := r } = if b = addr then data else busRead b s) ∧
  ∀ (s : State) (addr data : Byte), faulted s.regs = false → addr ≠ 0x00 → access (locate addr) ≠ .rw →
    busWrite addr data s = .next s

/-- 20_memory R31: which addresses the host may write with effect. -/
def Obligations.ReadWriteAddressesAreTheMapOnes : Prop :=
  ∀ addr : Byte, access (locate addr) = .rw ↔
    addr = 0x02 ∨ addr = 0x03 ∨ (0x06 ≤ addr.toNat ∧ addr.toNat ≤ 0x0B) ∨
    (0x10 ≤ addr.toNat ∧ addr.toNat ≤ 0x2F) ∨ (0x40 ≤ addr.toNat ∧ addr.toNat ≤ 0x5F)

/-- 20_memory R35: the low byte at the lower address, of all four wide registers; each half is written on its own, the
other half kept, and the two writes in either order leave the whole value. -/
def Obligations.WideRegistersAreWrittenByHalves : Prop :=
  (∀ s : State, busRead 0x07 s ++ busRead 0x06 s = s.regs.len ∧ busRead 0x09 s ++ busRead 0x08 s = s.regs.wa ∧
    busRead 0x0B s ++ busRead 0x0A s = s.regs.wb ∧ busRead 0x0D s ++ busRead 0x0C s = s.regs.wq) ∧
  ∀ (s : State) (lo hi : Byte), faulted s.regs = false →
    (busWrite 0x08 lo s = .next { s with regs := { s.regs with wa := s.regs.wa.extractLsb' 8 8 ++ lo } } ∧
      busWrite 0x09 hi s = .next { s with regs := { s.regs with wa := hi ++ s.regs.wa.extractLsb' 0 8 } } ∧
      busWrite 0x0A lo s = .next { s with regs := { s.regs with wb := s.regs.wb.extractLsb' 8 8 ++ lo } } ∧
      busWrite 0x0B hi s = .next { s with regs := { s.regs with wb := hi ++ s.regs.wb.extractLsb' 0 8 } } ∧
      busWrite 0x06 lo s = .next { s with regs := { s.regs with len := s.regs.len.extractLsb' 8 8 ++ lo } } ∧
      busWrite 0x07 hi s = .next { s with regs := { s.regs with len := hi ++ s.regs.len.extractLsb' 0 8 } }) ∧
    ∀ rest : List HostEvent,
      core.run 2 { s with script := .write 0x08 lo :: .write 0x09 hi :: rest } =
        .next { s with regs := { s.regs with wa := hi ++ lo }, script := rest } ∧
      core.run 2 { s with script := .write 0x09 hi :: .write 0x08 lo :: rest } =
        .next { s with regs := { s.regs with wa := hi ++ lo }, script := rest } ∧
      core.run 2 { s with script := .write 0x0A lo :: .write 0x0B hi :: rest } =
        .next { s with regs := { s.regs with wb := hi ++ lo }, script := rest } ∧
      core.run 2 { s with script := .write 0x0B hi :: .write 0x0A lo :: rest } =
        .next { s with regs := { s.regs with wb := hi ++ lo }, script := rest } ∧
      core.run 2 { s with script := .write 0x06 lo :: .write 0x07 hi :: rest } =
        .next { s with regs := { s.regs with len := hi ++ lo }, script := rest } ∧
      core.run 2 { s with script := .write 0x07 hi :: .write 0x06 lo :: rest } =
        .next { s with regs := { s.regs with len := hi ++ lo }, script := rest }

/-! ## Faults -/

/-- 60_exceptions R148: faulted is FAULT not 0; while faulted every write but CMD <- 0xFF is ignored, reads work, and
SRST and the reset input clear every register. -/
def Obligations.FaultedStateIgnoresAllButReset : Prop :=
  (∀ r : Regs, faulted r = true ↔ r.status.extractLsb' 0 3 ≠ 0) ∧
  ∀ (s : State) (rest : List HostEvent), faulted s.regs = true →
    (∀ addr data : Byte, s.script = .write addr data :: rest → ¬ (addr = 0x00 ∧ data = 0xFF) →
      step s = .next { s with script := rest }) ∧
    (∀ addr : Byte, s.script = .read addr :: rest →
      step s = .next { s with script := rest, reads := busRead addr s :: s.reads }) ∧
    (s.script = .write 0x00 0xFF :: rest → step s = .next { s with regs := State.reset.regs, script := rest }) ∧
    (s.script = .resetInput :: rest → step s = .next { s with regs := State.reset.regs, script := rest })

/-- 60_exceptions R147 with the codes of R140: whatever byte is written to CMD, a fault it raises writes STATUS alone,
with a code of 1 to 4 and upper bits 0. -/
def Obligations.FaultEntryWritesStatusAlone : Prop :=
  ∀ (s t : State) (c : Byte), faulted s.regs = false → busWrite 0x00 c s = .next t → faulted t.regs = true →
    ∃ f : FaultCause, t = { s with regs := { s.regs with status := faultCode f } } ∧
      (faultCode f = 1 ∨ faultCode f = 2 ∨ faultCode f = 3 ∨ faultCode f = 4)

/-- GFDIV with WB = 0 raises DivisionByZero whatever WA is, and no other byte written to CMD does, in any state
(60_exceptions, Causes: that GFINV never raises it is marked as derived there). -/
def Obligations.DivisionByZeroIsGfdivWithZeroDivisor : Prop :=
  (∀ s : State, faulted s.regs = false → s.regs.wb = 0 →
    exec .gfdiv s = .next { s with regs := { s.regs with status := 1 } }) ∧
  ∀ (s t : State) (c : Byte), faulted s.regs = false → busWrite 0x00 c s = .next t → t.regs.status = 1 →
    c = 0x14 ∧ s.regs.wb = 0

/-- GFDIV raises RemainderOverflow exactly when the remainder of the division exceeds 0xFF, which needs WB at least
0x0200, and no other byte written to CMD raises it (60_exceptions, Causes; the identity that names the remainder
is marked as derived in 40_field). -/
def Obligations.RemainderOverflowIsGfdivWithWideRemainder : Prop :=
  (∀ (s : State) (q r : Wide), faulted s.regs = false → s.regs.wb ≠ 0 →
    s.regs.wa.toNat = clMul q.toNat s.regs.wb.toNat ^^^ r.toNat → r.toNat < 2 ^ s.regs.wb.toNat.log2 →
    0xFF < r.toNat → exec .gfdiv s = .next { s with regs := { s.regs with status := 2 } } ∧
      0x0200 ≤ s.regs.wb.toNat) ∧
  ∀ (s t : State) (c : Byte), faulted s.regs = false → busWrite 0x00 c s = .next t → t.regs.status = 2 →
    c = 0x14 ∧ 0x0200 ≤ s.regs.wb.toNat ∧ ∃ q r : Wide,
      s.regs.wa.toNat = clMul q.toNat s.regs.wb.toNat ^^^ r.toNat ∧ r.toNat < 2 ^ s.regs.wb.toNat.log2 ∧ 0xFF < r.toNat

/-- The hash path never faults, GFINV included (60_exceptions, The hash path: marked as derived there). -/
def Obligations.HashPathKeepsStatusZero : Prop :=
  ∀ (s t : State) (e : HostEvent) (rest : List HostEvent), s.regs.status = 0 → hashPathEvent e = true →
    s.script = e :: rest → step s = .next t → t.regs.status = 0

/-- Nothing stops the machine: every command and every step answers a next state (the model takes each fault of the
spec as a next state, log entry 6; 70_reset_and_hazards, Hazards and timing: every sequence has an outcome). -/
def Obligations.EveryCommandAndStepCompletes : Prop :=
  (∀ (i : Instr) (s : State), ∃ t : State, exec i s = .next t) ∧ ∀ s : State, ∃ t : State, step s = .next t

/-- The column "writes" of the register-use table (10_state, Who reads and writes what): a command that does not fault
leaves every register outside it unchanged, one that faults leaves every register but STATUS unchanged, and neither
touches the host's lists. -/
def Obligations.CommandsWriteOnlyTheirRegisters : Prop :=
  ∀ (i : Instr) (s t : State), faulted s.regs = false → exec i s = .next t →
    t.script = s.script ∧ t.reads = s.reads ∧
    (faulted t.regs = false → ∀ n : RegName, n ∉ writeSet i → agree s.regs t.regs n = true) ∧
    (faulted t.regs = true → ∀ n : RegName, n ≠ .status → agree s.regs t.regs n = true)

/-- The column "reads" of the register-use table: two non-faulted states that agree on what a command reads give the
same fault or the same values in what it writes, whatever their other registers hold. -/
def Obligations.CommandsDependOnlyOnTheirOperands : Prop :=
  ∀ (i : Instr) (s s' t t' : State), faulted s.regs = false → faulted s'.regs = false →
    (∀ n : RegName, n ∈ readSet i → agree s.regs s'.regs n = true) → exec i s = .next t → exec i s' = .next t' →
    faulted t.regs = faulted t'.regs ∧ (faulted t.regs = true → t.regs.status = t'.regs.status) ∧
    (faulted t.regs = false → ∀ n : RegName, n ∈ writeSet i → agree t.regs t'.regs n = true)

/-! ## System and field commands -/

/-- 45_system R135: NOP changes no register, STATUS included, in any state. -/
def Obligations.NopChangesNothing : Prop := ∀ s : State, exec .nop s = .next s

/-- 40_field R70. -/
def Obligations.GfaddWritesTheXor : Prop :=
  ∀ s : State, faulted s.regs = false →
    exec .gfadd s = .next { s with regs := { s.regs with fr := s.regs.fa ^^^ s.regs.fb } }

/-- FR takes MulMod(FA, FB) (40_field, Commands), which is the conditional substitutions on the bits of the unreduced
product, from degree 8 upward (40_field, Pure functions). The seven values of the identities written out here are the
spec's own derivation from the modulus, marked as derived there. -/
def Obligations.GfmulWritesTheReducedProduct : Prop :=
  (∀ s : State, faulted s.regs = false →
    exec .gfmul s = .next { s with regs := { s.regs with fr := mulMod s.regs.fa s.regs.fb } }) ∧
  ∀ a b : Byte, mulMod a b =
    [(8, 0x2B#8), (9, 0x56#8), (10, 0xAC#8), (11, 0x73#8), (12, 0xE6#8), (13, 0xE7#8), (14, 0xE5#8)].foldl
      (fun z e => if (clMul a.toNat b.toNat).testBit e.1 then z ^^^ e.2 else z)
      (BitVec.ofNat 8 (clMul a.toNat b.toNat))

/-- 40_field R61 on naturals: each output bit is the exclusive-or of the products of matching bits; commutative, zero,
one, degrees add, and two bytes give a product below 2^15. -/
def Obligations.ClMulIsTheBitConvolution : Prop :=
  (∀ u v k : Nat, (clMul u v).testBit k =
    (List.range (k + 1)).foldl (fun acc i => acc ^^ (u.testBit i && v.testBit (k - i))) false) ∧
  (∀ u v : Nat, clMul u v = clMul v u) ∧ (∀ u : Nat, clMul u 0 = 0 ∧ clMul u 1 = u) ∧
  (∀ u v : Nat, u ≠ 0 → v ≠ 0 → clMul u v ≠ 0 ∧ (clMul u v).log2 = u.log2 + v.log2) ∧
  ∀ a b : Byte, clMul a.toNat b.toNat < 2 ^ 15

/-- Each reduction identity is x^k modulo MODULUS (40_field, Pure functions: the values are marked as derived there). -/
def Obligations.ReductionIdentitiesAreRemainders : Prop :=
  reductionTable.map (·.1) = [8, 9, 10, 11, 12, 13, 14] ∧
  ∀ e : Nat × Byte, e ∈ reductionTable → ∃ q : Nat, 2 ^ e.1 = clMul q 0x012B ^^^ e.2.toNat

/-- MulMod is the remainder of the polynomial product on division by MODULUS (40_field, Pure functions: the spec marks
the sentence as derived). -/
def Obligations.MulModIsThePolynomialRemainder : Prop :=
  ∀ a b : Byte, ∃ q : Nat, clMul a.toNat b.toNat = clMul q 0x012B ^^^ (mulMod a b).toNat

/-- The field laws (40_field, Pure functions): the source's laws, and associativity and unique inverses, which the spec
marks as derived. -/
def Obligations.FieldLawsHold : Prop :=
  (∀ a b c : Byte, fieldAdd a b = fieldAdd b a ∧ fieldAdd a (fieldAdd b c) = fieldAdd (fieldAdd a b) c ∧
    fieldAdd a 0 = a ∧ fieldAdd a a = 0) ∧
  (∀ a b c : Byte, mulMod a b = mulMod b a ∧ mulMod a (fieldAdd b c) = fieldAdd (mulMod a b) (mulMod a c) ∧
    mulMod a 0 = 0 ∧ mulMod a 1 = a ∧ mulMod a (mulMod b c) = mulMod (mulMod a b) c) ∧
  ∀ a : Byte, a ≠ 0 → ∃ y : Byte, mulMod a y = 1 ∧ ∀ z : Byte, mulMod a z = 1 → z = y

/-- GFINV completes from every non-faulted state, without a fault: FR takes 0 for 0, else the one byte whose product
with FA is 1 (40_field R72; that no operand raises NoInverse is marked as derived in the spec). -/
def Obligations.GfinvWritesTheInverse : Prop :=
  ∀ s : State, faulted s.regs = false → ∃ y : Byte,
    exec .gfinv s = .next { s with regs := { s.regs with fr := y } } ∧
    (s.regs.fa = 0 → y = 0) ∧
    (s.regs.fa ≠ 0 → mulMod s.regs.fa y = 1 ∧ ∀ z : Byte, mulMod s.regs.fa z = 1 → z = y)

/-- 40_field R73: DG takes 0x80 for the zero polynomial, else the index of the highest set bit of WA. -/
def Obligations.GfdegWritesTheDegree : Prop :=
  (∀ s : State, faulted s.regs = false → s.regs.wa = 0 →
    exec .gfdeg s = .next { s with regs := { s.regs with dg := 0x80 } }) ∧
  ∀ (s : State) (d : Nat), faulted s.regs = false → s.regs.wa.getLsbD d = true →
    (∀ j : Nat, d < j → s.regs.wa.getLsbD j = false) →
    exec .gfdeg s = .next { s with regs := { s.regs with dg := BitVec.ofNat 8 d } }

/-- GFDIV completes exactly as the division says: whenever WA = q·WB + r as polynomials, the degree of r below that of
WB and r at most 0xFF, WQ takes q and RM takes r (40_field R74; the identity is marked as derived in the spec). -/
def Obligations.GfdivStoresQuotientAndRemainder : Prop :=
  ∀ (s : State) (q r : Wide), faulted s.regs = false → s.regs.wb ≠ 0 →
    s.regs.wa.toNat = clMul q.toNat s.regs.wb.toNat ^^^ r.toNat → r.toNat < 2 ^ s.regs.wb.toNat.log2 →
    r.toNat ≤ 0xFF → exec .gfdiv s = .next { s with regs := { s.regs with wq := q, rm := r.setWidth 8 } }

/-- Every division by a nonzero polynomial has such a quotient and remainder, and LongDivision answers them or, for a
remainder above 0xFF, RemainderOverflow (40_field, LongDivision; the identity is marked as derived in the spec). -/
def Obligations.LongDivisionIsEuclidean : Prop :=
  (∀ n : Wide, longDivision n 0 = .error .divisionByZero) ∧
  ∀ n d : Wide, d ≠ 0 → ∃ q r : Wide,
    n.toNat = clMul q.toNat d.toNat ^^^ r.toNat ∧ r.toNat < 2 ^ d.toNat.log2 ∧
    longDivision n d = if r.toNat ≤ 0xFF then .ok (q, r.setWidth 8) else .error .remainderOverflow

/-! ## The substitution box -/

/-- 41_sbox R84: FR takes the table's entry for FA, which is 0x34 for 0, else 0xB6 times the inverse of FA, plus 0x34. -/
def Obligations.SboxWritesTheSubstitutedByte : Prop :=
  (∀ s : State, faulted s.regs = false →
    exec .sbox s = .next { s with regs := { s.regs with fr := subByte s.regs.fa } }) ∧
  (∀ s : State, faulted s.regs = false → s.regs.fa = 0 →
    exec .sbox s = .next { s with regs := { s.regs with fr := 0x34 } }) ∧
  ∀ (s : State) (y : Byte), faulted s.regs = false → mulMod s.regs.fa y = 1 →
    exec .sbox s = .next { s with regs := { s.regs with fr := mulMod 0xB6 y ^^^ 0x34 } }

/-- 41_sbox R85: every entry of the table is the affine image of the inverse. -/
def Obligations.SboxTableIsAffineOverInverse : Prop :=
  ∀ a : Byte, ∃ y : Byte, modInv a = .ok y ∧ subByte a = fieldAdd (mulMod 0xB6 y) 0x34

/-- The table is a permutation of the bytes without a fixed point (41_sbox, the full table: facts the spec derives). -/
def Obligations.SboxTableIsAPermutation : Prop :=
  (∀ b : Byte, ∃ a : Byte, subByte a = b) ∧ (∀ a a' : Byte, subByte a = subByte a' → a = a') ∧
  ∀ a : Byte, subByte a ≠ a

/-! ## Matrix commands -/

/-- 42_matrix R90. -/
def Obligations.MzeroClearsTheResult : Prop :=
  ∀ s : State, faulted s.regs = false →
    exec .mzero s = .next { s with regs := { s.regs with mr := Vector.replicate 16 0 } }

/-- 42_matrix R91: bytewise exclusive-or. -/
def Obligations.MaddAddsBytewise : Prop :=
  ∀ (s : State) (m : Block), faulted s.regs = false → (∀ k : Fin 16, m[k] = s.regs.ma[k] ^^^ s.regs.mb[k]) →
    exec .madd s = .next { s with regs := { s.regs with mr := m } }

/-- 42_matrix R92: `MR[4·i+j]` is the sum over k of the products of `MA[4·i+k]` and `MB[4·k+j]`. -/
def Obligations.MmulMultipliesRowByColumn : Prop :=
  ∀ (s : State) (m : Block), faulted s.regs = false →
    (∀ i j : Fin 4, m[4 * i.val + j.val] =
      mulMod s.regs.ma[4 * i.val] s.regs.mb[j.val] ^^^ mulMod s.regs.ma[4 * i.val + 1] s.regs.mb[4 + j.val] ^^^
      mulMod s.regs.ma[4 * i.val + 2] s.regs.mb[8 + j.val] ^^^
      mulMod s.regs.ma[4 * i.val + 3] s.regs.mb[12 + j.val]) →
    exec .mmul s = .next { s with regs := { s.regs with mr := m } }

/-- The matrix product is associative, distributes over the sum on both sides, and has the identity matrix neutral on
both sides (42_matrix, Pure functions: marked as derived there). -/
def Obligations.MatrixProductLaws : Prop :=
  (∀ a b c : Block, matMul (matMul a b) c = matMul a (matMul b c)) ∧
  (∀ a b c : Block, matMul a (matAdd b c) = matAdd (matMul a b) (matMul a c) ∧
    matMul (matAdd a b) c = matAdd (matMul a c) (matMul b c)) ∧
  ∀ a : Block, matMul #v[1, 0, 0, 0, 0, 1, 0, 0, 0, 0, 1, 0, 0, 0, 0, 1] a = a ∧
    matMul a #v[1, 0, 0, 0, 0, 1, 0, 0, 0, 0, 1, 0, 0, 0, 0, 1] = a

/-! ## Round commands -/

/-- 43_round R104: every byte of MA replaced by its table entry. -/
def Obligations.RsubSubstitutesEveryByte : Prop :=
  ∀ (s : State) (m : Block), faulted s.regs = false → (∀ k : Fin 16, m[k] = subByte s.regs.ma[k]) →
    exec .rsub s = .next { s with regs := { s.regs with mr := m } }

/-- 43_round R105 and R98: row i rotated left by i places, on the serialised register; four times is the identity. -/
def Obligations.RshiftRotatesTheRows : Prop :=
  (∀ s : State, faulted s.regs = false → exec .rshift s = .next { s with regs := { s.regs with mr :=
    #v[s.regs.ma[0], s.regs.ma[1], s.regs.ma[2], s.regs.ma[3], s.regs.ma[5], s.regs.ma[6], s.regs.ma[7], s.regs.ma[4],
      s.regs.ma[10], s.regs.ma[11], s.regs.ma[8], s.regs.ma[9], s.regs.ma[15], s.regs.ma[12], s.regs.ma[13],
      s.regs.ma[14]] } }) ∧
  ∀ x : Block, shiftRows (shiftRows (shiftRows (shiftRows x))) = x

/-- MR takes T times MA with T on the left. The rows of T are written out in the orientation the spec supplies from
general knowledge (43_round, Constants; 92_eei_decisions D17; log entry 9). -/
def Obligations.RdiffMultipliesByTheCirculant : Prop :=
  ∀ (s : State) (m : Block), faulted s.regs = false →
    (∀ j : Fin 4,
      m[j.val] = mulMod 1 s.regs.ma[j.val] ^^^ mulMod 5 s.regs.ma[4 + j.val] ^^^ mulMod 3 s.regs.ma[8 + j.val] ^^^
        mulMod 2 s.regs.ma[12 + j.val] ∧
      m[4 + j.val] = mulMod 2 s.regs.ma[j.val] ^^^ mulMod 1 s.regs.ma[4 + j.val] ^^^
        mulMod 5 s.regs.ma[8 + j.val] ^^^ mulMod 3 s.regs.ma[12 + j.val] ∧
      m[8 + j.val] = mulMod 3 s.regs.ma[j.val] ^^^ mulMod 2 s.regs.ma[4 + j.val] ^^^
        mulMod 1 s.regs.ma[8 + j.val] ^^^ mulMod 5 s.regs.ma[12 + j.val] ∧
      m[12 + j.val] = mulMod 5 s.regs.ma[j.val] ^^^ mulMod 3 s.regs.ma[4 + j.val] ^^^
        mulMod 2 s.regs.ma[8 + j.val] ^^^ mulMod 1 s.regs.ma[12 + j.val]) →
    exec .rdiff s = .next { s with regs := { s.regs with mr := m } }

/-- 43_round R107: row r of RC into bytes 0 to 3, the others as they were; r = 6 or 7 raises IllegalCommand with
nothing else written. -/
def Obligations.RaddrcAddsTheConstantRow : Prop :=
  (∀ (s : State) (r : BitVec 3) (m : Block) (h : r.toNat < 6), faulted s.regs = false →
    (∀ j : Fin 4, m[j.val] = s.regs.ma[j.val] ^^^ Config.rc ⟨r.toNat, h⟩ j) →
    (∀ k : Fin 16, 4 ≤ k.val → m[k] = s.regs.ma[k]) →
    exec (.raddrc r) s = .next { s with regs := { s.regs with mr := m } }) ∧
  ∀ (s : State) (r : BitVec 3), faulted s.regs = false → 6 ≤ r.toNat →
    exec (.raddrc r) s = .next { s with regs := { s.regs with status := 4 } }

/-- 43_round R108 with R102: one round in place; the new MB is mixed with the NEW MA; r = 6 or 7 raises
IllegalCommand with nothing else written. -/
def Obligations.RoundUpdatesBothMatricesInPlace : Prop :=
  (∀ (s : State) (r : BitVec 3) (k m : Block) (h : r.toNat < 6), faulted s.regs = false →
    k = addRoundConstant Config.rc (matMul diffusionMatrix (shiftRows (substitute s.regs.ma))) ⟨r.toNat, h⟩ →
    m = matAdd (matMul diffusionMatrix (shiftRows (substitute s.regs.mb))) k →
    exec (.round r) s = .next { s with regs := { s.regs with ma := k, mb := m } }) ∧
  ∀ (s : State) (r : BitVec 3), faulted s.regs = false → 6 ≤ r.toNat →
    exec (.round r) s = .next { s with regs := { s.regs with status := 4 } }

/-- 43_round R109 with R103: the masked-message matrix after rounds 0 to 5 from (MA, MB), which stay unchanged. -/
def Obligations.RoundsRunsSixRounds : Prop :=
  ∀ (s : State) (k m : Nat → Block), faulted s.regs = false → k 0 = s.regs.ma → m 0 = s.regs.mb →
    (∀ r : Fin 6, k (r.val + 1) =
        addRoundConstant Config.rc (matMul diffusionMatrix (shiftRows (substitute (k r.val)))) r ∧
      m (r.val + 1) = matAdd (matMul diffusionMatrix (shiftRows (substitute (m r.val)))) (k (r.val + 1))) →
    exec .rounds s = .next { s with regs := { s.regs with mr := m 6 } }

/-- Six ROUND commands leave in MB what one ROUNDS leaves in MR, and one ROUND leaves in MA what the four step commands
give, each fed the last result (43_round, Commands: marked as derived there). -/
def Obligations.RoundCommandsComposeToRounds : Prop :=
  (∀ (s t u : State) (rest : List HostEvent), faulted s.regs = false →
    s.script = [cmd (.round 0), cmd (.round 1), cmd (.round 2), cmd (.round 3), cmd (.round 4), cmd (.round 5)] ++ rest →
    core.run 6 s = .next t → exec .rounds s = .next u → t.regs.mb = u.regs.mr) ∧
  ∀ (s t a b c d : State) (r : BitVec 3), faulted s.regs = false → r.toNat < 6 → exec (.round r) s = .next t →
    exec .rsub s = .next a → exec .rshift { a with regs := { a.regs with ma := a.regs.mr } } = .next b →
    exec .rdiff { b with regs := { b.regs with ma := b.regs.mr } } = .next c →
    exec (.raddrc r) { c with regs := { c.regs with ma := c.regs.mr } } = .next d → t.regs.ma = d.regs.mr

/-! ## Compression, padding and hash -/

/-- 44_compress_hash R120 with R116 and R115: the block enters column by column, the round function runs on
(H, A + H), and H takes M6 + A + H; BUF, LEN and the matrix registers stay. -/
def Obligations.CmprFoldsTheBlockIntoH : Prop :=
  ∀ (s : State) (a m0 m6 h' : Block), faulted s.regs = false →
    (∀ row col : Fin 4, a[4 * row.val + col.val] = s.regs.buf[row.val + 4 * col.val]) →
    (∀ k : Fin 16, m0[k] = a[k] ^^^ s.regs.h[k]) → m6 = roundFunction Config.rc s.regs.h m0 →
    (∀ k : Fin 16, h'[k] = m6[k] ^^^ a[k] ^^^ s.regs.h[k]) →
    exec .cmpr s = .next { s with regs := { s.regs with h := h' } }

/-- 44_compress_hash R121. -/
def Obligations.HinitStartsAHash : Prop :=
  ∀ s : State, faulted s.regs = false →
    exec .hinit s = .next { s with regs := { s.regs with h := Vector.replicate 16 0, buf := Vector.replicate 16 0, len := 0 } }

/-- 44_compress_hash R122: the byte goes to `BUF[LEN[3:0]]` and LEN counts it, wrapping; the sixteenth byte of a block
folds the block into H and clears BUF. -/
def Obligations.HupdAbsorbsOneByte : Prop :=
  (∀ s : State, faulted s.regs = false → s.regs.len.toNat % 16 ≠ 15 →
    exec .hupd s = .next { s with regs := { s.regs with
      buf := s.regs.buf.set (s.regs.len.toNat % 16) s.regs.fa (Nat.mod_lt _ (by decide)),
      len := BitVec.ofNat 16 ((s.regs.len.toNat + 1) % 65536) } }) ∧
  ∀ s : State, faulted s.regs = false → s.regs.len.toNat % 16 = 15 →
    exec .hupd s = .next { s with regs := { s.regs with
      h := compress Config.rc s.regs.h (s.regs.buf.set 15 s.regs.fa), buf := Vector.replicate 16 0,
      len := BitVec.ofNat 16 ((s.regs.len.toNat + 1) % 65536) } }

/-- 44_compress_hash R123: with at most 14 bytes in the buffer one fold of them, zeros and the big-endian length; with
15, one fold of the zero-filled buffer and one of zeros and the length; then BUF and LEN are clear. -/
def Obligations.HfinPadsAndFolds : Prop :=
  (∀ (s : State) (w : Block), faulted s.regs = false → s.regs.len.toNat % 16 ≤ 14 →
    (∀ k : Fin 16, k.val < s.regs.len.toNat % 16 → w[k] = s.regs.buf[k]) →
    (∀ k : Fin 16, s.regs.len.toNat % 16 ≤ k.val → k.val < 14 → w[k] = 0) →
    w[14] = BitVec.ofNat 8 (s.regs.len.toNat / 256) → w[15] = BitVec.ofNat 8 (s.regs.len.toNat % 256) →
    exec .hfin s = .next { s with regs := { s.regs with
      h := compress Config.rc s.regs.h w, buf := Vector.replicate 16 0, len := 0 } }) ∧
  ∀ (s : State) (w v : Block), faulted s.regs = false → s.regs.len.toNat % 16 = 15 →
    (∀ k : Fin 16, k.val < 15 → w[k] = s.regs.buf[k]) → w[15] = 0 →
    (∀ k : Fin 16, k.val < 14 → v[k] = 0) →
    v[14] = BitVec.ofNat 8 (s.regs.len.toNat / 256) → v[15] = BitVec.ofNat 8 (s.regs.len.toNat % 256) →
    exec .hfin s = .next { s with regs := { s.regs with
      h := compress Config.rc (compress Config.rc s.regs.h w) v, buf := Vector.replicate 16 0, len := 0 } }

/-- 44_compress_hash R117 and R118: ((L + 1) div 16) + 1 whole blocks, the message first, then zeros, and in the last
two bytes the 16-bit length, big-endian, of L modulo 65536. -/
def Obligations.PaddingHasTheStatedShape : Prop :=
  ∀ msg : List Byte,
    (pad msg).length = 16 * ((msg.length + 1) / 16 + 1) ∧
    msg.length + 2 ≤ (pad msg).length ∧ (pad msg).length ≤ msg.length + 17 ∧
    (pad msg).take msg.length = msg ∧
    (∀ k : Nat, msg.length ≤ k → k + 2 < (pad msg).length → (pad msg)[k]? = some 0) ∧
    (pad msg)[(pad msg).length - 2]? = some (BitVec.ofNat 8 (msg.length % 65536 / 256)) ∧
    (pad msg)[(pad msg).length - 1]? = some (BitVec.ofNat 8 (msg.length % 65536 % 256))

/-- The streaming commands compute the hash of the whole message: from EVERY non-faulted state, HINIT, then for each
byte a write of FA and HUPD, then HFIN, leaves in H the fold of Compress over the padded message, BUF and LEN clear,
no fault, and no other register but FA changed, for a message of any length (44_compress_hash, Agreement of the two
forms: marked as derived there). -/
def Obligations.StreamingCommandsComputeTheHash : Prop :=
  ∀ (s : State) (msg : List Byte) (rest : List HostEvent), faulted s.regs = false →
    s.script = hashSequence msg ++ rest →
    core.run (2 * msg.length + 2) s = .next { s with
      regs := { s.regs with fa := msg.getLastD s.regs.fa, h := hashOf Config.rc msg, buf := Vector.replicate 16 0,
                            len := 0 },
      script := rest }

/-- The HASH pseudo-instruction ends with the sixteen reads of H: they answer the digest bytes 0 to 15 in this order,
the latest first in the list of answers (44_compress_hash, Properties; 30_encoding, Host-script syntax). It rests
on the agreement of the two forms, which the spec marks as derived. -/
def Obligations.HashScriptReadsTheDigestInOrder : Prop :=
  ∀ (s : State) (msg : List Byte) (rest : List HostEvent), faulted s.regs = false →
    s.script = hashScript msg ++ rest → ∃ t : State, core.run (2 * msg.length + 18) s = .next t ∧
      t.reads = (hashOf Config.rc msg).toList.reverse ++ s.reads ∧ t.script = rest
end

