-- ==== Sys2Proof/Laws/State.lean ====
section
/-!
SUPPORT. One lemma per field per update of the register set and of the state, so that no later proof unfolds a record
update, and the registers of the reset state.
-/

namespace Sys2Proof.Machine

@[simp] theorem Regs.setFa_fa (r : Regs) (v : Byte) : (r.setFa v).fa = v := rfl
@[simp] theorem Regs.setFa_fb (r : Regs) (v : Byte) : (r.setFa v).fb = r.fb := rfl
@[simp] theorem Regs.setFa_fr (r : Regs) (v : Byte) : (r.setFa v).fr = r.fr := rfl
@[simp] theorem Regs.setFa_dg (r : Regs) (v : Byte) : (r.setFa v).dg = r.dg := rfl
@[simp] theorem Regs.setFa_wa (r : Regs) (v : Byte) : (r.setFa v).wa = r.wa := rfl
@[simp] theorem Regs.setFa_wb (r : Regs) (v : Byte) : (r.setFa v).wb = r.wb := rfl
@[simp] theorem Regs.setFa_wq (r : Regs) (v : Byte) : (r.setFa v).wq = r.wq := rfl
@[simp] theorem Regs.setFa_rm (r : Regs) (v : Byte) : (r.setFa v).rm = r.rm := rfl
@[simp] theorem Regs.setFa_len (r : Regs) (v : Byte) : (r.setFa v).len = r.len := rfl
@[simp] theorem Regs.setFa_ma (r : Regs) (v : Byte) : (r.setFa v).ma = r.ma := rfl
@[simp] theorem Regs.setFa_mb (r : Regs) (v : Byte) : (r.setFa v).mb = r.mb := rfl
@[simp] theorem Regs.setFa_mr (r : Regs) (v : Byte) : (r.setFa v).mr = r.mr := rfl
@[simp] theorem Regs.setFa_h (r : Regs) (v : Byte) : (r.setFa v).h = r.h := rfl
@[simp] theorem Regs.setFa_buf (r : Regs) (v : Byte) : (r.setFa v).buf = r.buf := rfl
@[simp] theorem Regs.setFa_status (r : Regs) (v : Byte) : (r.setFa v).status = r.status := rfl

@[simp] theorem Regs.setFb_fa (r : Regs) (v : Byte) : (r.setFb v).fa = r.fa := rfl
@[simp] theorem Regs.setFb_fb (r : Regs) (v : Byte) : (r.setFb v).fb = v := rfl
@[simp] theorem Regs.setFb_fr (r : Regs) (v : Byte) : (r.setFb v).fr = r.fr := rfl
@[simp] theorem Regs.setFb_dg (r : Regs) (v : Byte) : (r.setFb v).dg = r.dg := rfl
@[simp] theorem Regs.setFb_wa (r : Regs) (v : Byte) : (r.setFb v).wa = r.wa := rfl
@[simp] theorem Regs.setFb_wb (r : Regs) (v : Byte) : (r.setFb v).wb = r.wb := rfl
@[simp] theorem Regs.setFb_wq (r : Regs) (v : Byte) : (r.setFb v).wq = r.wq := rfl
@[simp] theorem Regs.setFb_rm (r : Regs) (v : Byte) : (r.setFb v).rm = r.rm := rfl
@[simp] theorem Regs.setFb_len (r : Regs) (v : Byte) : (r.setFb v).len = r.len := rfl
@[simp] theorem Regs.setFb_ma (r : Regs) (v : Byte) : (r.setFb v).ma = r.ma := rfl
@[simp] theorem Regs.setFb_mb (r : Regs) (v : Byte) : (r.setFb v).mb = r.mb := rfl
@[simp] theorem Regs.setFb_mr (r : Regs) (v : Byte) : (r.setFb v).mr = r.mr := rfl
@[simp] theorem Regs.setFb_h (r : Regs) (v : Byte) : (r.setFb v).h = r.h := rfl
@[simp] theorem Regs.setFb_buf (r : Regs) (v : Byte) : (r.setFb v).buf = r.buf := rfl
@[simp] theorem Regs.setFb_status (r : Regs) (v : Byte) : (r.setFb v).status = r.status := rfl

@[simp] theorem Regs.setFr_fa (r : Regs) (v : Byte) : (r.setFr v).fa = r.fa := rfl
@[simp] theorem Regs.setFr_fb (r : Regs) (v : Byte) : (r.setFr v).fb = r.fb := rfl
@[simp] theorem Regs.setFr_fr (r : Regs) (v : Byte) : (r.setFr v).fr = v := rfl
@[simp] theorem Regs.setFr_dg (r : Regs) (v : Byte) : (r.setFr v).dg = r.dg := rfl
@[simp] theorem Regs.setFr_wa (r : Regs) (v : Byte) : (r.setFr v).wa = r.wa := rfl
@[simp] theorem Regs.setFr_wb (r : Regs) (v : Byte) : (r.setFr v).wb = r.wb := rfl
@[simp] theorem Regs.setFr_wq (r : Regs) (v : Byte) : (r.setFr v).wq = r.wq := rfl
@[simp] theorem Regs.setFr_rm (r : Regs) (v : Byte) : (r.setFr v).rm = r.rm := rfl
@[simp] theorem Regs.setFr_len (r : Regs) (v : Byte) : (r.setFr v).len = r.len := rfl
@[simp] theorem Regs.setFr_ma (r : Regs) (v : Byte) : (r.setFr v).ma = r.ma := rfl
@[simp] theorem Regs.setFr_mb (r : Regs) (v : Byte) : (r.setFr v).mb = r.mb := rfl
@[simp] theorem Regs.setFr_mr (r : Regs) (v : Byte) : (r.setFr v).mr = r.mr := rfl
@[simp] theorem Regs.setFr_h (r : Regs) (v : Byte) : (r.setFr v).h = r.h := rfl
@[simp] theorem Regs.setFr_buf (r : Regs) (v : Byte) : (r.setFr v).buf = r.buf := rfl
@[simp] theorem Regs.setFr_status (r : Regs) (v : Byte) : (r.setFr v).status = r.status := rfl

@[simp] theorem Regs.setDg_fa (r : Regs) (v : Byte) : (r.setDg v).fa = r.fa := rfl
@[simp] theorem Regs.setDg_fb (r : Regs) (v : Byte) : (r.setDg v).fb = r.fb := rfl
@[simp] theorem Regs.setDg_fr (r : Regs) (v : Byte) : (r.setDg v).fr = r.fr := rfl
@[simp] theorem Regs.setDg_dg (r : Regs) (v : Byte) : (r.setDg v).dg = v := rfl
@[simp] theorem Regs.setDg_wa (r : Regs) (v : Byte) : (r.setDg v).wa = r.wa := rfl
@[simp] theorem Regs.setDg_wb (r : Regs) (v : Byte) : (r.setDg v).wb = r.wb := rfl
@[simp] theorem Regs.setDg_wq (r : Regs) (v : Byte) : (r.setDg v).wq = r.wq := rfl
@[simp] theorem Regs.setDg_rm (r : Regs) (v : Byte) : (r.setDg v).rm = r.rm := rfl
@[simp] theorem Regs.setDg_len (r : Regs) (v : Byte) : (r.setDg v).len = r.len := rfl
@[simp] theorem Regs.setDg_ma (r : Regs) (v : Byte) : (r.setDg v).ma = r.ma := rfl
@[simp] theorem Regs.setDg_mb (r : Regs) (v : Byte) : (r.setDg v).mb = r.mb := rfl
@[simp] theorem Regs.setDg_mr (r : Regs) (v : Byte) : (r.setDg v).mr = r.mr := rfl
@[simp] theorem Regs.setDg_h (r : Regs) (v : Byte) : (r.setDg v).h = r.h := rfl
@[simp] theorem Regs.setDg_buf (r : Regs) (v : Byte) : (r.setDg v).buf = r.buf := rfl
@[simp] theorem Regs.setDg_status (r : Regs) (v : Byte) : (r.setDg v).status = r.status := rfl

@[simp] theorem Regs.setWa_fa (r : Regs) (v : Wide) : (r.setWa v).fa = r.fa := rfl
@[simp] theorem Regs.setWa_fb (r : Regs) (v : Wide) : (r.setWa v).fb = r.fb := rfl
@[simp] theorem Regs.setWa_fr (r : Regs) (v : Wide) : (r.setWa v).fr = r.fr := rfl
@[simp] theorem Regs.setWa_dg (r : Regs) (v : Wide) : (r.setWa v).dg = r.dg := rfl
@[simp] theorem Regs.setWa_wa (r : Regs) (v : Wide) : (r.setWa v).wa = v := rfl
@[simp] theorem Regs.setWa_wb (r : Regs) (v : Wide) : (r.setWa v).wb = r.wb := rfl
@[simp] theorem Regs.setWa_wq (r : Regs) (v : Wide) : (r.setWa v).wq = r.wq := rfl
@[simp] theorem Regs.setWa_rm (r : Regs) (v : Wide) : (r.setWa v).rm = r.rm := rfl
@[simp] theorem Regs.setWa_len (r : Regs) (v : Wide) : (r.setWa v).len = r.len := rfl
@[simp] theorem Regs.setWa_ma (r : Regs) (v : Wide) : (r.setWa v).ma = r.ma := rfl
@[simp] theorem Regs.setWa_mb (r : Regs) (v : Wide) : (r.setWa v).mb = r.mb := rfl
@[simp] theorem Regs.setWa_mr (r : Regs) (v : Wide) : (r.setWa v).mr = r.mr := rfl
@[simp] theorem Regs.setWa_h (r : Regs) (v : Wide) : (r.setWa v).h = r.h := rfl
@[simp] theorem Regs.setWa_buf (r : Regs) (v : Wide) : (r.setWa v).buf = r.buf := rfl
@[simp] theorem Regs.setWa_status (r : Regs) (v : Wide) : (r.setWa v).status = r.status := rfl

@[simp] theorem Regs.setWb_fa (r : Regs) (v : Wide) : (r.setWb v).fa = r.fa := rfl
@[simp] theorem Regs.setWb_fb (r : Regs) (v : Wide) : (r.setWb v).fb = r.fb := rfl
@[simp] theorem Regs.setWb_fr (r : Regs) (v : Wide) : (r.setWb v).fr = r.fr := rfl
@[simp] theorem Regs.setWb_dg (r : Regs) (v : Wide) : (r.setWb v).dg = r.dg := rfl
@[simp] theorem Regs.setWb_wa (r : Regs) (v : Wide) : (r.setWb v).wa = r.wa := rfl
@[simp] theorem Regs.setWb_wb (r : Regs) (v : Wide) : (r.setWb v).wb = v := rfl
@[simp] theorem Regs.setWb_wq (r : Regs) (v : Wide) : (r.setWb v).wq = r.wq := rfl
@[simp] theorem Regs.setWb_rm (r : Regs) (v : Wide) : (r.setWb v).rm = r.rm := rfl
@[simp] theorem Regs.setWb_len (r : Regs) (v : Wide) : (r.setWb v).len = r.len := rfl
@[simp] theorem Regs.setWb_ma (r : Regs) (v : Wide) : (r.setWb v).ma = r.ma := rfl
@[simp] theorem Regs.setWb_mb (r : Regs) (v : Wide) : (r.setWb v).mb = r.mb := rfl
@[simp] theorem Regs.setWb_mr (r : Regs) (v : Wide) : (r.setWb v).mr = r.mr := rfl
@[simp] theorem Regs.setWb_h (r : Regs) (v : Wide) : (r.setWb v).h = r.h := rfl
@[simp] theorem Regs.setWb_buf (r : Regs) (v : Wide) : (r.setWb v).buf = r.buf := rfl
@[simp] theorem Regs.setWb_status (r : Regs) (v : Wide) : (r.setWb v).status = r.status := rfl

@[simp] theorem Regs.setWq_fa (r : Regs) (v : Wide) : (r.setWq v).fa = r.fa := rfl
@[simp] theorem Regs.setWq_fb (r : Regs) (v : Wide) : (r.setWq v).fb = r.fb := rfl
@[simp] theorem Regs.setWq_fr (r : Regs) (v : Wide) : (r.setWq v).fr = r.fr := rfl
@[simp] theorem Regs.setWq_dg (r : Regs) (v : Wide) : (r.setWq v).dg = r.dg := rfl
@[simp] theorem Regs.setWq_wa (r : Regs) (v : Wide) : (r.setWq v).wa = r.wa := rfl
@[simp] theorem Regs.setWq_wb (r : Regs) (v : Wide) : (r.setWq v).wb = r.wb := rfl
@[simp] theorem Regs.setWq_wq (r : Regs) (v : Wide) : (r.setWq v).wq = v := rfl
@[simp] theorem Regs.setWq_rm (r : Regs) (v : Wide) : (r.setWq v).rm = r.rm := rfl
@[simp] theorem Regs.setWq_len (r : Regs) (v : Wide) : (r.setWq v).len = r.len := rfl
@[simp] theorem Regs.setWq_ma (r : Regs) (v : Wide) : (r.setWq v).ma = r.ma := rfl
@[simp] theorem Regs.setWq_mb (r : Regs) (v : Wide) : (r.setWq v).mb = r.mb := rfl
@[simp] theorem Regs.setWq_mr (r : Regs) (v : Wide) : (r.setWq v).mr = r.mr := rfl
@[simp] theorem Regs.setWq_h (r : Regs) (v : Wide) : (r.setWq v).h = r.h := rfl
@[simp] theorem Regs.setWq_buf (r : Regs) (v : Wide) : (r.setWq v).buf = r.buf := rfl
@[simp] theorem Regs.setWq_status (r : Regs) (v : Wide) : (r.setWq v).status = r.status := rfl

@[simp] theorem Regs.setRm_fa (r : Regs) (v : Byte) : (r.setRm v).fa = r.fa := rfl
@[simp] theorem Regs.setRm_fb (r : Regs) (v : Byte) : (r.setRm v).fb = r.fb := rfl
@[simp] theorem Regs.setRm_fr (r : Regs) (v : Byte) : (r.setRm v).fr = r.fr := rfl
@[simp] theorem Regs.setRm_dg (r : Regs) (v : Byte) : (r.setRm v).dg = r.dg := rfl
@[simp] theorem Regs.setRm_wa (r : Regs) (v : Byte) : (r.setRm v).wa = r.wa := rfl
@[simp] theorem Regs.setRm_wb (r : Regs) (v : Byte) : (r.setRm v).wb = r.wb := rfl
@[simp] theorem Regs.setRm_wq (r : Regs) (v : Byte) : (r.setRm v).wq = r.wq := rfl
@[simp] theorem Regs.setRm_rm (r : Regs) (v : Byte) : (r.setRm v).rm = v := rfl
@[simp] theorem Regs.setRm_len (r : Regs) (v : Byte) : (r.setRm v).len = r.len := rfl
@[simp] theorem Regs.setRm_ma (r : Regs) (v : Byte) : (r.setRm v).ma = r.ma := rfl
@[simp] theorem Regs.setRm_mb (r : Regs) (v : Byte) : (r.setRm v).mb = r.mb := rfl
@[simp] theorem Regs.setRm_mr (r : Regs) (v : Byte) : (r.setRm v).mr = r.mr := rfl
@[simp] theorem Regs.setRm_h (r : Regs) (v : Byte) : (r.setRm v).h = r.h := rfl
@[simp] theorem Regs.setRm_buf (r : Regs) (v : Byte) : (r.setRm v).buf = r.buf := rfl
@[simp] theorem Regs.setRm_status (r : Regs) (v : Byte) : (r.setRm v).status = r.status := rfl

@[simp] theorem Regs.setLen_fa (r : Regs) (v : Wide) : (r.setLen v).fa = r.fa := rfl
@[simp] theorem Regs.setLen_fb (r : Regs) (v : Wide) : (r.setLen v).fb = r.fb := rfl
@[simp] theorem Regs.setLen_fr (r : Regs) (v : Wide) : (r.setLen v).fr = r.fr := rfl
@[simp] theorem Regs.setLen_dg (r : Regs) (v : Wide) : (r.setLen v).dg = r.dg := rfl
@[simp] theorem Regs.setLen_wa (r : Regs) (v : Wide) : (r.setLen v).wa = r.wa := rfl
@[simp] theorem Regs.setLen_wb (r : Regs) (v : Wide) : (r.setLen v).wb = r.wb := rfl
@[simp] theorem Regs.setLen_wq (r : Regs) (v : Wide) : (r.setLen v).wq = r.wq := rfl
@[simp] theorem Regs.setLen_rm (r : Regs) (v : Wide) : (r.setLen v).rm = r.rm := rfl
@[simp] theorem Regs.setLen_len (r : Regs) (v : Wide) : (r.setLen v).len = v := rfl
@[simp] theorem Regs.setLen_ma (r : Regs) (v : Wide) : (r.setLen v).ma = r.ma := rfl
@[simp] theorem Regs.setLen_mb (r : Regs) (v : Wide) : (r.setLen v).mb = r.mb := rfl
@[simp] theorem Regs.setLen_mr (r : Regs) (v : Wide) : (r.setLen v).mr = r.mr := rfl
@[simp] theorem Regs.setLen_h (r : Regs) (v : Wide) : (r.setLen v).h = r.h := rfl
@[simp] theorem Regs.setLen_buf (r : Regs) (v : Wide) : (r.setLen v).buf = r.buf := rfl
@[simp] theorem Regs.setLen_status (r : Regs) (v : Wide) : (r.setLen v).status = r.status := rfl

@[simp] theorem Regs.setMa_fa (r : Regs) (v : Block) : (r.setMa v).fa = r.fa := rfl
@[simp] theorem Regs.setMa_fb (r : Regs) (v : Block) : (r.setMa v).fb = r.fb := rfl
@[simp] theorem Regs.setMa_fr (r : Regs) (v : Block) : (r.setMa v).fr = r.fr := rfl
@[simp] theorem Regs.setMa_dg (r : Regs) (v : Block) : (r.setMa v).dg = r.dg := rfl
@[simp] theorem Regs.setMa_wa (r : Regs) (v : Block) : (r.setMa v).wa = r.wa := rfl
@[simp] theorem Regs.setMa_wb (r : Regs) (v : Block) : (r.setMa v).wb = r.wb := rfl
@[simp] theorem Regs.setMa_wq (r : Regs) (v : Block) : (r.setMa v).wq = r.wq := rfl
@[simp] theorem Regs.setMa_rm (r : Regs) (v : Block) : (r.setMa v).rm = r.rm := rfl
@[simp] theorem Regs.setMa_len (r : Regs) (v : Block) : (r.setMa v).len = r.len := rfl
@[simp] theorem Regs.setMa_ma (r : Regs) (v : Block) : (r.setMa v).ma = v := rfl
@[simp] theorem Regs.setMa_mb (r : Regs) (v : Block) : (r.setMa v).mb = r.mb := rfl
@[simp] theorem Regs.setMa_mr (r : Regs) (v : Block) : (r.setMa v).mr = r.mr := rfl
@[simp] theorem Regs.setMa_h (r : Regs) (v : Block) : (r.setMa v).h = r.h := rfl
@[simp] theorem Regs.setMa_buf (r : Regs) (v : Block) : (r.setMa v).buf = r.buf := rfl
@[simp] theorem Regs.setMa_status (r : Regs) (v : Block) : (r.setMa v).status = r.status := rfl

@[simp] theorem Regs.setMb_fa (r : Regs) (v : Block) : (r.setMb v).fa = r.fa := rfl
@[simp] theorem Regs.setMb_fb (r : Regs) (v : Block) : (r.setMb v).fb = r.fb := rfl
@[simp] theorem Regs.setMb_fr (r : Regs) (v : Block) : (r.setMb v).fr = r.fr := rfl
@[simp] theorem Regs.setMb_dg (r : Regs) (v : Block) : (r.setMb v).dg = r.dg := rfl
@[simp] theorem Regs.setMb_wa (r : Regs) (v : Block) : (r.setMb v).wa = r.wa := rfl
@[simp] theorem Regs.setMb_wb (r : Regs) (v : Block) : (r.setMb v).wb = r.wb := rfl
@[simp] theorem Regs.setMb_wq (r : Regs) (v : Block) : (r.setMb v).wq = r.wq := rfl
@[simp] theorem Regs.setMb_rm (r : Regs) (v : Block) : (r.setMb v).rm = r.rm := rfl
@[simp] theorem Regs.setMb_len (r : Regs) (v : Block) : (r.setMb v).len = r.len := rfl
@[simp] theorem Regs.setMb_ma (r : Regs) (v : Block) : (r.setMb v).ma = r.ma := rfl
@[simp] theorem Regs.setMb_mb (r : Regs) (v : Block) : (r.setMb v).mb = v := rfl
@[simp] theorem Regs.setMb_mr (r : Regs) (v : Block) : (r.setMb v).mr = r.mr := rfl
@[simp] theorem Regs.setMb_h (r : Regs) (v : Block) : (r.setMb v).h = r.h := rfl
@[simp] theorem Regs.setMb_buf (r : Regs) (v : Block) : (r.setMb v).buf = r.buf := rfl
@[simp] theorem Regs.setMb_status (r : Regs) (v : Block) : (r.setMb v).status = r.status := rfl

@[simp] theorem Regs.setMr_fa (r : Regs) (v : Block) : (r.setMr v).fa = r.fa := rfl
@[simp] theorem Regs.setMr_fb (r : Regs) (v : Block) : (r.setMr v).fb = r.fb := rfl
@[simp] theorem Regs.setMr_fr (r : Regs) (v : Block) : (r.setMr v).fr = r.fr := rfl
@[simp] theorem Regs.setMr_dg (r : Regs) (v : Block) : (r.setMr v).dg = r.dg := rfl
@[simp] theorem Regs.setMr_wa (r : Regs) (v : Block) : (r.setMr v).wa = r.wa := rfl
@[simp] theorem Regs.setMr_wb (r : Regs) (v : Block) : (r.setMr v).wb = r.wb := rfl
@[simp] theorem Regs.setMr_wq (r : Regs) (v : Block) : (r.setMr v).wq = r.wq := rfl
@[simp] theorem Regs.setMr_rm (r : Regs) (v : Block) : (r.setMr v).rm = r.rm := rfl
@[simp] theorem Regs.setMr_len (r : Regs) (v : Block) : (r.setMr v).len = r.len := rfl
@[simp] theorem Regs.setMr_ma (r : Regs) (v : Block) : (r.setMr v).ma = r.ma := rfl
@[simp] theorem Regs.setMr_mb (r : Regs) (v : Block) : (r.setMr v).mb = r.mb := rfl
@[simp] theorem Regs.setMr_mr (r : Regs) (v : Block) : (r.setMr v).mr = v := rfl
@[simp] theorem Regs.setMr_h (r : Regs) (v : Block) : (r.setMr v).h = r.h := rfl
@[simp] theorem Regs.setMr_buf (r : Regs) (v : Block) : (r.setMr v).buf = r.buf := rfl
@[simp] theorem Regs.setMr_status (r : Regs) (v : Block) : (r.setMr v).status = r.status := rfl

@[simp] theorem Regs.setH_fa (r : Regs) (v : Block) : (r.setH v).fa = r.fa := rfl
@[simp] theorem Regs.setH_fb (r : Regs) (v : Block) : (r.setH v).fb = r.fb := rfl
@[simp] theorem Regs.setH_fr (r : Regs) (v : Block) : (r.setH v).fr = r.fr := rfl
@[simp] theorem Regs.setH_dg (r : Regs) (v : Block) : (r.setH v).dg = r.dg := rfl
@[simp] theorem Regs.setH_wa (r : Regs) (v : Block) : (r.setH v).wa = r.wa := rfl
@[simp] theorem Regs.setH_wb (r : Regs) (v : Block) : (r.setH v).wb = r.wb := rfl
@[simp] theorem Regs.setH_wq (r : Regs) (v : Block) : (r.setH v).wq = r.wq := rfl
@[simp] theorem Regs.setH_rm (r : Regs) (v : Block) : (r.setH v).rm = r.rm := rfl
@[simp] theorem Regs.setH_len (r : Regs) (v : Block) : (r.setH v).len = r.len := rfl
@[simp] theorem Regs.setH_ma (r : Regs) (v : Block) : (r.setH v).ma = r.ma := rfl
@[simp] theorem Regs.setH_mb (r : Regs) (v : Block) : (r.setH v).mb = r.mb := rfl
@[simp] theorem Regs.setH_mr (r : Regs) (v : Block) : (r.setH v).mr = r.mr := rfl
@[simp] theorem Regs.setH_h (r : Regs) (v : Block) : (r.setH v).h = v := rfl
@[simp] theorem Regs.setH_buf (r : Regs) (v : Block) : (r.setH v).buf = r.buf := rfl
@[simp] theorem Regs.setH_status (r : Regs) (v : Block) : (r.setH v).status = r.status := rfl

@[simp] theorem Regs.setBuf_fa (r : Regs) (v : Block) : (r.setBuf v).fa = r.fa := rfl
@[simp] theorem Regs.setBuf_fb (r : Regs) (v : Block) : (r.setBuf v).fb = r.fb := rfl
@[simp] theorem Regs.setBuf_fr (r : Regs) (v : Block) : (r.setBuf v).fr = r.fr := rfl
@[simp] theorem Regs.setBuf_dg (r : Regs) (v : Block) : (r.setBuf v).dg = r.dg := rfl
@[simp] theorem Regs.setBuf_wa (r : Regs) (v : Block) : (r.setBuf v).wa = r.wa := rfl
@[simp] theorem Regs.setBuf_wb (r : Regs) (v : Block) : (r.setBuf v).wb = r.wb := rfl
@[simp] theorem Regs.setBuf_wq (r : Regs) (v : Block) : (r.setBuf v).wq = r.wq := rfl
@[simp] theorem Regs.setBuf_rm (r : Regs) (v : Block) : (r.setBuf v).rm = r.rm := rfl
@[simp] theorem Regs.setBuf_len (r : Regs) (v : Block) : (r.setBuf v).len = r.len := rfl
@[simp] theorem Regs.setBuf_ma (r : Regs) (v : Block) : (r.setBuf v).ma = r.ma := rfl
@[simp] theorem Regs.setBuf_mb (r : Regs) (v : Block) : (r.setBuf v).mb = r.mb := rfl
@[simp] theorem Regs.setBuf_mr (r : Regs) (v : Block) : (r.setBuf v).mr = r.mr := rfl
@[simp] theorem Regs.setBuf_h (r : Regs) (v : Block) : (r.setBuf v).h = r.h := rfl
@[simp] theorem Regs.setBuf_buf (r : Regs) (v : Block) : (r.setBuf v).buf = v := rfl
@[simp] theorem Regs.setBuf_status (r : Regs) (v : Block) : (r.setBuf v).status = r.status := rfl

@[simp] theorem Regs.setStatus_fa (r : Regs) (v : Byte) : (r.setStatus v).fa = r.fa := rfl
@[simp] theorem Regs.setStatus_fb (r : Regs) (v : Byte) : (r.setStatus v).fb = r.fb := rfl
@[simp] theorem Regs.setStatus_fr (r : Regs) (v : Byte) : (r.setStatus v).fr = r.fr := rfl
@[simp] theorem Regs.setStatus_dg (r : Regs) (v : Byte) : (r.setStatus v).dg = r.dg := rfl
@[simp] theorem Regs.setStatus_wa (r : Regs) (v : Byte) : (r.setStatus v).wa = r.wa := rfl
@[simp] theorem Regs.setStatus_wb (r : Regs) (v : Byte) : (r.setStatus v).wb = r.wb := rfl
@[simp] theorem Regs.setStatus_wq (r : Regs) (v : Byte) : (r.setStatus v).wq = r.wq := rfl
@[simp] theorem Regs.setStatus_rm (r : Regs) (v : Byte) : (r.setStatus v).rm = r.rm := rfl
@[simp] theorem Regs.setStatus_len (r : Regs) (v : Byte) : (r.setStatus v).len = r.len := rfl
@[simp] theorem Regs.setStatus_ma (r : Regs) (v : Byte) : (r.setStatus v).ma = r.ma := rfl
@[simp] theorem Regs.setStatus_mb (r : Regs) (v : Byte) : (r.setStatus v).mb = r.mb := rfl
@[simp] theorem Regs.setStatus_mr (r : Regs) (v : Byte) : (r.setStatus v).mr = r.mr := rfl
@[simp] theorem Regs.setStatus_h (r : Regs) (v : Byte) : (r.setStatus v).h = r.h := rfl
@[simp] theorem Regs.setStatus_buf (r : Regs) (v : Byte) : (r.setStatus v).buf = r.buf := rfl
@[simp] theorem Regs.setStatus_status (r : Regs) (v : Byte) : (r.setStatus v).status = v := rfl

@[simp] theorem State.setRegs_regs (s : State) (r : Regs) : (s.setRegs r).regs = r := rfl
@[simp] theorem State.setRegs_script (s : State) (r : Regs) : (s.setRegs r).script = s.script := rfl
@[simp] theorem State.setRegs_reads (s : State) (r : Regs) : (s.setRegs r).reads = s.reads := rfl

@[simp] theorem State.answer_regs (s : State) (b : Byte) : (s.answer b).regs = s.regs := rfl
@[simp] theorem State.answer_script (s : State) (b : Byte) : (s.answer b).script = s.script := rfl
@[simp] theorem State.answer_reads (s : State) (b : Byte) : (s.answer b).reads = b :: s.reads := rfl

@[simp] theorem State.withScript_regs (s : State) (l : List HostEvent) : (s.withScript l).regs = s.regs := rfl
@[simp] theorem State.withScript_script (s : State) (l : List HostEvent) : (s.withScript l).script = l := rfl
@[simp] theorem State.withScript_reads (s : State) (l : List HostEvent) : (s.withScript l).reads = s.reads := rfl

@[simp] theorem State.issue_regs (s : State) (e : HostEvent) : (s.issue e).regs = s.regs := rfl
@[simp] theorem State.issue_script (s : State) (e : HostEvent) : (s.issue e).script = e :: s.script := rfl
@[simp] theorem State.issue_reads (s : State) (e : HostEvent) : (s.issue e).reads = s.reads := rfl

@[simp] theorem State.resetAll_regs (s : State) : s.resetAll.regs = resetRegs := rfl
@[simp] theorem State.resetAll_script (s : State) : s.resetAll.script = s.script := rfl
@[simp] theorem State.resetAll_reads (s : State) : s.resetAll.reads = s.reads := rfl

@[simp] theorem resetRegs_fa : resetRegs.fa = 0 := rfl
@[simp] theorem resetRegs_fb : resetRegs.fb = 0 := rfl
@[simp] theorem resetRegs_fr : resetRegs.fr = 0 := rfl
@[simp] theorem resetRegs_dg : resetRegs.dg = 0 := rfl
@[simp] theorem resetRegs_wa : resetRegs.wa = 0 := rfl
@[simp] theorem resetRegs_wb : resetRegs.wb = 0 := rfl
@[simp] theorem resetRegs_wq : resetRegs.wq = 0 := rfl
@[simp] theorem resetRegs_rm : resetRegs.rm = 0 := rfl
@[simp] theorem resetRegs_len : resetRegs.len = 0 := rfl
@[simp] theorem resetRegs_ma : resetRegs.ma = zeroBlock := rfl
@[simp] theorem resetRegs_mb : resetRegs.mb = zeroBlock := rfl
@[simp] theorem resetRegs_mr : resetRegs.mr = zeroBlock := rfl
@[simp] theorem resetRegs_h : resetRegs.h = zeroBlock := rfl
@[simp] theorem resetRegs_buf : resetRegs.buf = zeroBlock := rfl
@[simp] theorem resetRegs_status : resetRegs.status = 0 := rfl

@[simp] theorem State.reset_regs : State.reset.regs = resetRegs := rfl
@[simp] theorem State.reset_script : State.reset.script = [] := rfl
@[simp] theorem State.reset_reads : State.reset.reads = [] := rfl

/-- A taken fault writes STATUS and no other register (60_exceptions R147). -/
@[simp] theorem takeFault_eq (r : Regs) (f : FaultCause) : takeFault r f = r.setStatus (faultCode f) := rfl

end Sys2Proof.Machine
end

