-- ==== Sys2Proof/Laws/Ops.lean ====
section
/-!
SUPPORT. What each shared operation of Machine/Ops.lean and Machine/Operands.lean can do, said once: the faulted-state
gate of a command, the round index operand, the halves of a 16-bit register, and the address map with its reads and
writes.
-/

namespace Sys2Proof.Machine

/-- Every fault code is a faulted STATUS (60_exceptions R140, R148). -/
theorem faulted_setStatus_faultCode (r : Regs) (f : FaultCause) : faulted (r.setStatus (faultCode f)) = true := by
  cases f <;> rfl

/-- FAULT is determined by STATUS alone. -/
theorem faulted_congr {r r' : Regs} (h : r.status = r'.status) : faulted r = faulted r' := by
  simp only [faulted, h]

theorem command_of_live {s : State} (h : faulted s.regs = false) (e : Regs → Except FaultCause Regs) :
    s.command e = .next (s.setRegs (settle s.regs (e s.regs))) := by
  simp [State.command, h]

theorem command_of_faulted {s : State} (h : faulted s.regs = true) (e : Regs → Except FaultCause Regs) :
    s.command e = .next s := by
  simp [State.command, h]

/-- Everything a command can do: nothing in the faulted state, its effect's registers, or its fault taken. -/
theorem command_cases {s t : State} {e : Regs → Except FaultCause Regs} (h : s.command e = .next t) :
    (faulted s.regs = true ∧ t = s) ∨ (faulted s.regs = false ∧ ∃ r, e s.regs = .ok r ∧ t = s.setRegs r) ∨
      (faulted s.regs = false ∧ ∃ f, e s.regs = .error f ∧ t = s.setRegs (s.regs.setStatus (faultCode f))) := by
  cases hf : faulted s.regs
  · rw [command_of_live hf] at h
    cases he : e s.regs with
    | ok r => exact .inr (.inl ⟨rfl, r, rfl, by simpa [he, settle] using h.symm⟩)
    | error f => exact .inr (.inr ⟨rfl, f, rfl, by simpa [he, settle] using h.symm⟩)
  · rw [command_of_faulted hf] at h
    exact .inl ⟨rfl, by simpa using h.symm⟩

/-- A legal round index selects its round (30_encoding R47). -/
theorem withRoundIndex_of_lt {k : BitVec 3} (h : k.toNat < 6) (f : Fin 6 → Regs) :
    withRoundIndex k f = .ok (f ⟨k.toNat, h⟩) := by
  simp [withRoundIndex, h]

/-- A round index of 6 or 7 raises IllegalCommand (30_encoding R47). -/
theorem withRoundIndex_of_ge {k : BitVec 3} (h : 6 ≤ k.toNat) (f : Fin 6 → Regs) :
    withRoundIndex k f = .error .illegalCommand := by
  simp [withRoundIndex, Nat.not_lt.mpr h]

theorem lowByte_withLow (w : Wide) (b : Byte) : lowByte (withLow w b) = b := by
  ext i hi; simp only [lowByte, withLow, joinBytes, BitVec.getElem_extractLsb', BitVec.getLsbD_append]; simp [hi]

theorem highByte_withLow (w : Wide) (b : Byte) : highByte (withLow w b) = highByte w := by
  ext i hi
  simp only [highByte, withLow, joinBytes, BitVec.getElem_extractLsb', BitVec.getLsbD_append]
  simp [hi]

theorem lowByte_withHigh (w : Wide) (b : Byte) : lowByte (withHigh w b) = lowByte w := by
  ext i hi
  simp only [lowByte, withHigh, joinBytes, BitVec.getElem_extractLsb', BitVec.getLsbD_append]
  simp [hi]

theorem highByte_withHigh (w : Wide) (b : Byte) : highByte (withHigh w b) = b := by
  ext i hi; simp only [highByte, withHigh, joinBytes, BitVec.getElem_extractLsb', BitVec.getLsbD_append]; simp [hi]

/-- A 16-bit register is its two bus bytes (20_memory R35). -/
theorem joinBytes_highByte_lowByte (w : Wide) : joinBytes (highByte w) (lowByte w) = w := by
  apply BitVec.eq_of_getLsbD_eq
  intro i hi
  simp only [joinBytes, highByte, lowByte, BitVec.getLsbD_append, BitVec.getLsbD_extractLsb']
  by_cases h : i < 8
  · simp [h]
  · simp [h, show i - 8 < 8 by omega, show 8 + (i - 8) = i by omega]

/-- A host write takes effect at a read-write byte only (20_memory R33). -/
theorem writeLocation_of_not_rw (r : Regs) (d : Byte) {loc : Location} (h : access loc ≠ .rw) :
    writeLocation r d loc = r := by
  cases loc <;> simp_all [access, writeLocation]

/-- The byte a location holds after a host write: the data where a read-write byte was written, else what it held. -/
theorem readLocation_writeLocation (r : Regs) (d : Byte) {loc : Location} (h : access loc = .rw) (loc' : Location) :
    readLocation (writeLocation r d loc) loc' = if loc' = loc then d else readLocation r loc' := by
  cases loc <;> simp only [access, reduceCtorEq] at h <;> cases loc' <;>
    simp [writeLocation, readLocation, lowByte_withLow, highByte_withLow, lowByte_withHigh, highByte_withHigh,
      Vector.getElem_set, Fin.ext_iff, eq_comm]

/-- A host register write: ignored in the faulted state, else the location's. -/
theorem storeByte_of_live {s : State} (h : faulted s.regs = false) (loc : Location) (d : Byte) :
    s.storeByte loc d = s.setRegs (writeLocation s.regs d loc) := by
  simp [State.storeByte, h]

theorem storeByte_of_faulted {s : State} (h : faulted s.regs = true) (loc : Location) (d : Byte) :
    s.storeByte loc d = s := by
  simp [State.storeByte, h]

end Sys2Proof.Machine
end

