-- ==== Sys2Proof/Laws/Exec.lean ====
section
/-!
SUPPORT. exec said once: every command but SRST is its effect run under the faulted-state gate.
-/

namespace Sys2Proof.Machine

/-- The effect a command runs under the gate; SRST's, which runs without it, is reset. -/
def commandEffect : Instr → Regs → Except FaultCause Regs
  | .nop => nopEffect
  | .gfadd => gfaddEffect
  | .gfmul => gfmulEffect
  | .gfinv => gfinvEffect
  | .gfdeg => gfdegEffect
  | .gfdiv => gfdivEffect
  | .sbox => sboxEffect
  | .mzero => mzeroEffect
  | .madd => maddEffect
  | .mmul => mmulEffect
  | .rsub => rsubEffect
  | .rshift => rshiftEffect
  | .rdiff => rdiffEffect
  | .raddrc r => raddrcEffect Config.rc r
  | .round r => roundEffect Config.rc r
  | .rounds => roundsEffect Config.rc
  | .cmpr => cmprEffect Config.rc
  | .hinit => hinitEffect
  | .hupd => hupdEffect Config.rc
  | .hfin => hfinEffect Config.rc
  | .srst => fun _ => .ok resetRegs

theorem exec_srst (s : State) : exec .srst s = .next s.resetAll := rfl

/-- Every command but SRST runs its effect under the gate. -/
theorem exec_eq_command {i : Instr} (h : i ≠ .srst) (s : State) : exec i s = s.command (commandEffect i) := by
  cases i <;> first | rfl | exact absurd rfl h

/-- Outside the faulted state every command, SRST too, is its effect or its fault taken. -/
theorem exec_of_live (i : Instr) {s : State} (h : faulted s.regs = false) :
    exec i s = .next (s.setRegs (settle s.regs (commandEffect i s.regs))) := by
  cases i <;> first | exact command_of_live h _ | rfl

/-- In the faulted state every command but SRST changes nothing (60_exceptions R148). -/
theorem exec_of_faulted {i : Instr} (hi : i ≠ .srst) {s : State} (h : faulted s.regs = true) :
    exec i s = .next s := by
  rw [exec_eq_command hi, command_of_faulted h]

theorem absorbByte_status (r : Regs) : (absorbByte r).status = r.status := by simp [absorbByte]
theorem foldBuffer_status (rc : RoundConstants) (r : Regs) : (foldBuffer rc r).status = r.status := by simp [foldBuffer]
theorem foldBuffer_len (rc : RoundConstants) (r : Regs) : (foldBuffer rc r).len = r.len := by simp [foldBuffer]
theorem clearBuffer_status (r : Regs) : (clearBuffer r).status = r.status := by simp [clearBuffer]
theorem clearBuffer_len (r : Regs) : (clearBuffer r).len = r.len := by simp [clearBuffer]

theorem foldIfFull_status (rc : RoundConstants) (r : Regs) : (foldIfFull rc r).status = r.status := by
  unfold foldIfFull
  split
  · rw [clearBuffer_status, foldBuffer_status]
  · rfl

theorem finishTail_status (rc : RoundConstants) (r : Regs) : (finishTail rc r).status = r.status := by
  unfold finishTail
  split
  · rw [clearBuffer_status, foldBuffer_status, fillTail, Regs.setBuf_status]
  · rw [fillTail, Regs.setBuf_status]

theorem finishTail_len (rc : RoundConstants) (r : Regs) : (finishTail rc r).len = r.len := by
  unfold finishTail
  split
  · rw [clearBuffer_len, foldBuffer_len, fillTail, Regs.setBuf_len]
  · rw [fillTail, Regs.setBuf_len]

theorem finishLength_status (rc : RoundConstants) (r : Regs) : (finishLength rc r).status = r.status := by
  rw [finishLength, Regs.setLen_status, clearBuffer_status, foldBuffer_status, Regs.setBuf_status]

/-- No effect but SRST's writes STATUS: a command sets it by taking a fault only (10_state R20). -/
theorem commandEffect_status {i : Instr} (hi : i ≠ .srst) {r r' : Regs} (h : commandEffect i r = .ok r') :
    r'.status = r.status := by
  cases i with
  | srst => exact absurd rfl hi
  | gfinv =>
    simp only [commandEffect, gfinvEffect] at h
    split at h <;> cases h
    rw [Regs.setFr_status]
  | gfdiv =>
    simp only [commandEffect, gfdivEffect] at h
    split at h <;> cases h
    rw [Regs.setRm_status, Regs.setWq_status]
  | raddrc k =>
    simp only [commandEffect, raddrcEffect, withRoundIndex] at h
    split at h <;> cases h
    rw [Regs.setMr_status]
  | round k =>
    simp only [commandEffect, roundEffect, withRoundIndex] at h
    split at h <;> cases h
    rw [Regs.setMb_status, Regs.setMa_status]
  | hupd => cases h; rw [foldIfFull_status, absorbByte_status]
  | hfin => cases h; rw [finishLength_status, finishTail_status]
  | cmpr => cases h; rw [foldBuffer_status]
  | hinit => cases h; rw [Regs.setLen_status, clearBuffer_status, Regs.setH_status]
  | nop => cases h; rfl
  | gfadd | gfmul | sbox => cases h; rw [Regs.setFr_status]
  | gfdeg => cases h; rw [Regs.setDg_status]
  | mzero | madd | mmul | rsub | rshift | rdiff | rounds => cases h; rw [Regs.setMr_status]

/-- Which faults a command's effect can raise (60_exceptions R140). -/
theorem commandEffect_error {i : Instr} {r : Regs} {f : FaultCause} (h : commandEffect i r = .error f) :
    (i = .gfinv ∧ modInv r.fa = .error f) ∨ (i = .gfdiv ∧ longDivision r.wa r.wb = .error f) ∨
      f = .illegalCommand ∧ ((∃ k, i = .raddrc k ∧ 6 ≤ k.toNat) ∨ ∃ k, i = .round k ∧ 6 ≤ k.toNat) := by
  cases i with
  | gfinv => simp only [commandEffect, gfinvEffect] at h; split at h <;> simp_all
  | gfdiv => simp only [commandEffect, gfdivEffect] at h; split at h <;> simp_all
  | raddrc k => simp only [commandEffect, raddrcEffect, withRoundIndex] at h; split at h <;> simp_all
  | round k => simp only [commandEffect, roundEffect, withRoundIndex] at h; split at h <;> simp_all
  | _ => cases h

end Sys2Proof.Machine
end

