-- ==== Sys2Proof/Laws/Bus.lean ====
section
/-!
SUPPORT. The address map, the bus primitives and the step: what each can do, said once.
-/

namespace Sys2Proof.Machine

/-- CMD is address 0x00 and no other (20_memory R31). -/
theorem locate_eq_cmd_iff : ∀ addr : Byte, locate addr = .cmd ↔ addr = 0x00 := by decide

/-- An address names its location, and a location that is not reserved has one address (20_memory R31). -/
theorem addressOf_locate : ∀ addr : Byte, locate addr ≠ .reserved → addressOf (locate addr) = addr := by decide

theorem locate_addressOf (loc : Location) : locate (addressOf loc) = loc := by
  have bank : ∀ k : Fin 16, locate (addressOf (.ma k)) = .ma k ∧ locate (addressOf (.mb k)) = .mb k ∧
      locate (addressOf (.mr k)) = .mr k ∧ locate (addressOf (.h k)) = .h k ∧ locate (addressOf (.buf k)) = .buf k := by
    decide
  cases loc <;> first | rfl | exact (bank _).1 | exact (bank _).2.1 | exact (bank _).2.2.1 | exact (bank _).2.2.2.1 |
    exact (bank _).2.2.2.2

/-- A write to CMD executes the byte (20_memory R33). -/
theorem busWrite_cmd (c : Byte) (s : State) : busWrite 0x00 c s = writeCommand c s := rfl

/-- A write to any other address is a register write (20_memory R33). -/
theorem busWrite_of_ne {addr : Byte} (h : addr ≠ 0x00) (d : Byte) (s : State) :
    busWrite addr d s = .next (s.storeByte (locate addr) d) := by
  have hc : locate addr ≠ .cmd := mt (locate_eq_cmd_iff addr).mp h
  unfold busWrite
  split
  · exact absurd ‹_› hc
  · rfl

theorem writeCommand_of_ok {c : Byte} {i : Instr} (h : decode c = .ok i) (s : State) : writeCommand c s = exec i s := by
  simp [writeCommand, h]

theorem writeCommand_of_error {c : Byte} {e : DecodeError} (h : decode c = .error e) (s : State) :
    writeCommand c s = s.command illegalEffect := by
  simp [writeCommand, h]

theorem step_nil {s : State} (h : s.script = []) : step s = .next s := by
  simp [step, hostStep, h]

theorem step_cons {s : State} {e : HostEvent} {rest : List HostEvent} (h : s.script = e :: rest) :
    step s = carryOut e (s.withScript rest) := by
  simp [step, hostStep, h]

theorem carryOut_read (a : Byte) (s : State) : carryOut (.read a) s = .next (s.answer (busRead a s)) := rfl
theorem carryOut_write (a d : Byte) (s : State) : carryOut (.write a d) s = busWrite a d s := rfl
theorem carryOut_resetInput (s : State) : carryOut .resetInput s = .next s.resetAll := rfl

/-- A host-script register write (30_encoding R55). -/
theorem carryOut_wr {loc : Location} (h : loc ≠ .cmd) (d : Byte) (s : State) :
    carryOut (wr loc d) s = .next (s.storeByte loc d) := by
  have : addressOf loc ≠ 0x00 := fun ha => h (by rw [← locate_addressOf loc, ha]; rfl)
  rw [wr, carryOut_write, busWrite_of_ne this, locate_addressOf]

/-- A host-script register read (30_encoding R55). -/
theorem carryOut_rd (loc : Location) (s : State) :
    carryOut (rd loc) s = .next (s.answer (readLocation s.regs loc)) := by
  rw [rd, carryOut_read, busRead, locate_addressOf]

end Sys2Proof.Machine
end

