-- ==== Sys2Proof/Laws/Field.lean ====
section
/-!
SUPPORT. The division loop and the extended-Euclidean loop reach their own exit within their bounds on the passes
(40_field R66, R67), and the carry-less product adds up over its first argument.
-/

namespace Sys2Proof.Machine

/-- Each set bit of v adds its shifted copy of u: the partial products distribute over exclusive-or on the left. -/
theorem clMulBelow_xor_left (u u' v n : Nat) :
    clMulBelow (u ^^^ u') v n = clMulBelow u v n ^^^ clMulBelow u' v n := by
  induction n with
  | zero => simp [clMulBelow]
  | succ n ih =>
    simp only [clMulBelow, ih]
    split
    · rw [Nat.shiftLeft_xor_distrib]
      ac_rfl
    · simp

theorem clMul_xor_left (u u' v : Nat) : clMul (u ^^^ u') v = clMul u v ^^^ clMul u' v :=
  clMulBelow_xor_left u u' v _

/-- The degree of a nonzero value is its highest bit (40_field R65). -/
theorem degree_of_ne_zero {w : Nat} {v : BitVec w} (h : v ≠ 0) : degree v = some v.toNat.log2 := by
  have : v.toNat ≠ 0 := fun h' => h (BitVec.eq_of_toNat_eq (by simpa using h'))
  simp [degree, this]

theorem degree_zero {w : Nat} : degree (0 : BitVec w) = none := by simp [degree]

/-- Exclusive-or with a value of the same degree lowers the degree. -/
theorem xor_lt_of_log2_eq {a b n : Nat} (ha : a ≠ 0) (hb : b ≠ 0) (hla : a.log2 = n) (hlb : b.log2 = n) :
    a ^^^ b < 2 ^ n := by
  have hA : a < 2 ^ (n + 1) := (Nat.log2_lt ha).mp (by omega)
  have hB : b < 2 ^ (n + 1) := (Nat.log2_lt hb).mp (by omega)
  have hAn : 2 ^ n ≤ a := (Nat.le_log2 ha).mp (by omega)
  have hBn : 2 ^ n ≤ b := (Nat.le_log2 hb).mp (by omega)
  have top : ∀ x, x < 2 ^ (n + 1) → 2 ^ n ≤ x → x.testBit n = true := fun x hx hx' => by
    rw [Nat.testBit_eq_decide_div_mod_eq, decide_eq_true_eq]
    have : x / 2 ^ n = 1 := by
      apply Nat.div_eq_of_lt_le <;> omega
    omega
  apply Nat.lt_pow_two_of_testBit
  intro i hi
  rw [Nat.testBit_xor]
  rcases Nat.lt_or_eq_of_le hi with h | h
  · rw [Nat.testBit_lt_two_pow (lt_of_lt_of_le hA (Nat.pow_le_pow_right (by omega) h)),
      Nat.testBit_lt_two_pow (lt_of_lt_of_le hB (Nat.pow_le_pow_right (by omega) h))]
    rfl
  · rw [← h, top a hA hAn, top b hB hBn]
    rfl

/-- A shift that aligns the divisor under a remainder of at most 16 bits loses no bit (40_field R66). -/
theorem toNat_shiftLeft_aligned {r d : Wide} (hd : d.toNat ≠ 0) (hr : r.toNat ≠ 0) (h : d.toNat.log2 ≤ r.toNat.log2) :
    (d <<< (r.toNat.log2 - d.toNat.log2)).toNat = d.toNat <<< (r.toNat.log2 - d.toNat.log2) ∧
      (d.toNat <<< (r.toNat.log2 - d.toNat.log2)).log2 = r.toNat.log2 := by
  have h16 : r.toNat.log2 < 16 := (Nat.log2_lt hr).mpr r.isLt
  have hd2 : d.toNat < 2 ^ (d.toNat.log2 + 1) := Nat.lt_log2_self
  have hlt : d.toNat <<< (r.toNat.log2 - d.toNat.log2) < 2 ^ 16 := by
    rw [Nat.shiftLeft_eq]
    calc d.toNat * 2 ^ (r.toNat.log2 - d.toNat.log2)
        < 2 ^ (d.toNat.log2 + 1) * 2 ^ (r.toNat.log2 - d.toNat.log2) :=
          Nat.mul_lt_mul_of_pos_right hd2 (Nat.pow_pos (by omega))
      _ = 2 ^ (r.toNat.log2 + 1) := by rw [← Nat.pow_add]; congr 1; omega
      _ ≤ 2 ^ 16 := Nat.pow_le_pow_right (by omega) (by omega)
  refine ⟨?_, ?_⟩
  · rw [BitVec.toNat_shiftLeft, Nat.mod_eq_of_lt hlt]
  · have hle : 2 ^ d.toNat.log2 ≤ d.toNat := (Nat.le_log2 hd).mp le_rfl
    rw [Nat.shiftLeft_eq, Nat.log2_eq_iff (Nat.mul_ne_zero hd (Nat.pow_pos (by omega)).ne')]
    constructor
    · calc 2 ^ r.toNat.log2 = 2 ^ d.toNat.log2 * 2 ^ (r.toNat.log2 - d.toNat.log2) := by
            rw [← Nat.pow_add]; congr 1; omega
        _ ≤ _ := Nat.mul_le_mul_right _ hle
    · calc d.toNat * 2 ^ (r.toNat.log2 - d.toNat.log2)
          < 2 ^ (d.toNat.log2 + 1) * 2 ^ (r.toNat.log2 - d.toNat.log2) :=
            Nat.mul_lt_mul_of_pos_right hd2 (Nat.pow_pos (by omega))
        _ = 2 ^ (r.toNat.log2 + 1) := by rw [← Nat.pow_add]; congr 1; omega

/-- The division loop ends by its own test: with as many passes as the remainder has bits, the remainder it leaves has
a degree below the divisor's (40_field R66; notes/assumptions/8.md). -/
theorem divLoop_exit (fuel : Nat) {d : Wide} (hd : d ≠ 0) :
    ∀ q r : Wide, r.toNat < 2 ^ fuel → (divLoop fuel d q r).2.toNat < 2 ^ d.toNat.log2 := by
  have hd' : d.toNat ≠ 0 := fun h => hd (BitVec.eq_of_toNat_eq (by simpa using h))
  induction fuel with
  | zero =>
    intro q r hr
    have : r.toNat = 0 := by simpa using hr
    simp [divLoop, this]
  | succ fuel ih =>
    intro q r hr
    by_cases hr0 : r.toNat = 0
    · simp [divLoop, degree, hr0]
    · simp only [divLoop, degree, hr0, hd', if_false]
      split
      · rename_i h
        have hal := toNat_shiftLeft_aligned hd' hr0 h
        have hne : d.toNat <<< (r.toNat.log2 - d.toNat.log2) ≠ 0 := by
          rw [Nat.shiftLeft_eq]; exact Nat.mul_ne_zero hd' (Nat.pow_pos (by omega)).ne'
        refine ih _ _ ?_
        rw [BitVec.toNat_xor, hal.1]
        refine lt_of_lt_of_le (xor_lt_of_log2_eq hr0 hne rfl hal.2) (Nat.pow_le_pow_right (by omega) ?_)
        have := (Nat.log2_lt hr0).mpr hr
        omega
      · rename_i h
        exact (Nat.log2_lt hr0).mp (by omega)

/-- The sixteen passes LongDivision gives the loop always suffice. -/
theorem divLoop_sixteen_exit {d : Wide} (hd : d ≠ 0) (n : Wide) :
    (divLoop 16 d 0 n).2.toNat < 2 ^ d.toNat.log2 :=
  divLoop_exit 16 hd 0 n n.isLt

/-- The extended-Euclidean loop ends by its own test within its sixteen passes, for all 256 operands (40_field R67;
notes/assumptions/8.md). -/
theorem euclidLoop_exit : ∀ a : Byte, (euclidLoop 16 (euclidStart a)).map (·.rCur) = .ok 0 := by decide +kernel

end Sys2Proof.Machine
end

