-- ==== Sys2Proof/Laws/Hash.lean ====
section
/-!
SUPPORT. What the small steps of HUPD and HFIN do to the block buffer and to LEN (44_compress_hash R122, R123).
-/

namespace Sys2Proof.Machine

/-- The zero fill keeps the message bytes and clears the rest (44_compress_hash R123). -/
theorem zeroFrom_getElem (f : Fin 16) (b : Block) (k : Nat) (h : k < 16) :
    (zeroFrom f b)[k] = if k < f.val then b[k] else 0 := by
  simp only [zeroFrom, Vector.getElem_ofFn]
  rfl

/-- The length bytes go to the last two places, high byte first; the others are kept (44_compress_hash R123). -/
theorem withLength_getElem (len : Wide) (b : Block) (k : Nat) (h : k < 16) :
    (withLength len b)[k] = if k = 15 then lowByte len else if k = 14 then highByte len else b[k] := by
  simp only [withLength, Vector.getElem_set]
  by_cases h15 : k = 15
  · simp [h15]
  · by_cases h14 : k = 14
    · simp [h14]
    · simp [h15, h14, Ne.symm h15, Ne.symm h14]

/-- The fill index after one more byte: LEN wraps with it, since 16 divides 65536 (44_compress_hash R122). -/
theorem fillIndex_succ (len : Wide) : (fillIndex (len + 1)).val = (len.toNat + 1) % 16 := by
  simp [fillIndex, BitVec.toNat_add]

/-- HUPD on a block that does not fill: the byte is stored and counted (44_compress_hash R122). -/
theorem hupdEffect_of_room (rc : RoundConstants) {r : Regs} (h : r.len.toNat % 16 ≠ 15) :
    hupdEffect rc r = .ok ((r.setBuf (r.buf.set (fillIndex r.len) r.fa)).setLen (r.len + 1)) := by
  have : ¬ fillIndex (r.len + 1) = 0 := fun h0 => by
    have h1 := fillIndex_succ r.len
    rw [h0] at h1
    simp at h1
    omega
  simp only [hupdEffect, foldIfFull, absorbByte, Regs.setLen_len, this, if_false]

/-- HUPD on the last byte of a block: the block is folded and the buffer cleared (44_compress_hash R122). -/
theorem hupdEffect_of_full (rc : RoundConstants) {r : Regs} (h : r.len.toNat % 16 = 15) :
    hupdEffect rc r = .ok (clearBuffer (foldBuffer rc (absorbByte r))) := by
  have : fillIndex (r.len + 1) = 0 := Fin.ext (by rw [fillIndex_succ]; simp; omega)
  simp only [hupdEffect, foldIfFull, absorbByte, Regs.setLen_len, this, if_true]

end Sys2Proof.Machine
end

