-- ==== Sys2Proof/Laws/Matrix.lean ====
section
/-!
SUPPORT. Reading the cells of a matrix built from cells, and equality of matrices by cells.
-/

namespace Sys2Proof.Machine

/-- The byte of a built matrix is the cell its index names (42_matrix R86). -/
theorem ofCells_getElem (f : Fin 4 → Fin 4 → Byte) (k : Nat) (h : k < 16) :
    (ofCells f)[k] = f ⟨k / 4, by omega⟩ ⟨k % 4, by omega⟩ := by
  simp [ofCells]

/-- `Mat(Ser(A)) = A` (42_matrix R86). -/
theorem cell_ofCells (f : Fin 4 → Fin 4 → Byte) (i j : Fin 4) : cell (ofCells f) i j = f i j := by
  have hi : (4 * i.val + j.val) / 4 = i.val := by omega
  have hj : (4 * i.val + j.val) % 4 = j.val := by omega
  simp only [cell, ofCells_getElem, hi, hj]

/-- `Ser(Mat(b)) = b` (42_matrix R86). -/
theorem ofCells_cell (b : Block) : ofCells (cell b) = b := by
  apply Vector.ext
  intro k hk
  have hk' : 4 * (k / 4) + k % 4 = k := by omega
  simp only [ofCells_getElem, cell, hk']

/-- Matrices are equal when their cells are. -/
theorem block_ext_cells {a b : Block} (h : ∀ i j : Fin 4, cell a i j = cell b i j) : a = b := by
  rw [← ofCells_cell a, ← ofCells_cell b]
  congr 1
  funext i j
  exact h i j

theorem cell_matAdd (a b : Block) (i j : Fin 4) : cell (matAdd a b) i j = cell a i j ^^^ cell b i j := by
  rw [matAdd, cell_ofCells, fieldAdd]

theorem cell_matMul (a b : Block) (i j : Fin 4) :
    cell (matMul a b) i j = dot (fun k => cell a i k) (fun k => cell b k j) := by
  rw [matMul, cell_ofCells]

theorem cell_substitute (x : Block) (i j : Fin 4) : cell (substitute x) i j = subByte (cell x i j) := by
  rw [substitute, cell_ofCells]

theorem cell_shiftRows (x : Block) (i j : Fin 4) : cell (shiftRows x) i j = cell x i (j + i) := by
  rw [shiftRows, cell_ofCells]

theorem cell_blockToMatrix (w : Block) (i j : Fin 4) : cell (blockToMatrix w) i j = w[i.val + 4 * j.val] := by
  rw [blockToMatrix, cell_ofCells]

/-- The diffusion matrix written out (43_round R95). -/
theorem diffusionMatrix_eq : diffusionMatrix = #v[1, 5, 3, 2, 2, 1, 5, 3, 3, 2, 1, 5, 5, 3, 2, 1] := by decide

end Sys2Proof.Machine
end

