-- ==== Sys2Proof/Laws/PerInstr.lean ====
section
/-!
SUPPORT. The family of statements made per instruction: the code of each command lies in its own row of
spec/opcode_table.json (its fixed bits under the row's mask are the row's), so format C0 fixes all eight bits and
format CR the top five (30_encoding R46).
-/

namespace Sys2Proof.Laws.EncodesInRow

/-- A command's row of the opcode table: match and mask. -/
def row : Instr → Byte × Byte
  | .nop => (0x00, 0xFF)
  | .gfadd => (0x10, 0xFF)
  | .gfmul => (0x11, 0xFF)
  | .gfinv => (0x12, 0xFF)
  | .gfdeg => (0x13, 0xFF)
  | .gfdiv => (0x14, 0xFF)
  | .sbox => (0x20, 0xFF)
  | .mzero => (0x30, 0xFF)
  | .madd => (0x31, 0xFF)
  | .mmul => (0x32, 0xFF)
  | .rsub => (0x40, 0xFF)
  | .rshift => (0x41, 0xFF)
  | .rdiff => (0x42, 0xFF)
  | .raddrc _ => (0x50, 0xF8)
  | .round _ => (0x60, 0xF8)
  | .rounds => (0x70, 0xFF)
  | .cmpr => (0x80, 0xFF)
  | .hinit => (0x81, 0xFF)
  | .hupd => (0x82, 0xFF)
  | .hfin => (0x83, 0xFF)
  | .srst => (0xFF, 0xFF)

/-- The code of the command matches its row. -/
def Statement (i : Instr) : Prop := encode i &&& (row i).2 = (row i).1

theorem nop : Statement .nop := rfl
theorem gfadd : Statement .gfadd := rfl
theorem gfmul : Statement .gfmul := rfl
theorem gfinv : Statement .gfinv := rfl
theorem gfdeg : Statement .gfdeg := rfl
theorem gfdiv : Statement .gfdiv := rfl
theorem sbox : Statement .sbox := rfl
theorem mzero : Statement .mzero := rfl
theorem madd : Statement .madd := rfl
theorem mmul : Statement .mmul := rfl
theorem rsub : Statement .rsub := rfl
theorem rshift : Statement .rshift := rfl
theorem rdiff : Statement .rdiff := rfl
theorem raddrc (r : BitVec 3) : Statement (.raddrc r) := by unfold Statement; revert r; decide
theorem round (r : BitVec 3) : Statement (.round r) := by unfold Statement; revert r; decide
theorem rounds : Statement .rounds := rfl
theorem cmpr : Statement .cmpr := rfl
theorem hinit : Statement .hinit := rfl
theorem hupd : Statement .hupd := rfl
theorem hfin : Statement .hfin := rfl
theorem srst : Statement .srst := rfl

end Sys2Proof.Laws.EncodesInRow
end

