-- ==== Sys2Proof/Tests/Slice0.lean ====
section
/-!
SUPPORT. The model's own tests. Expected values are the spec's: the vectors V2 to V12 of 95_test_vectors and the words
of 30_encoding R48. After them, one witness for each statement of Certificates/Slice0/Obligations.lean that has
hypotheses: a concrete state and operands that meet all of them.
-/

namespace Sys2Proof.Tests

open Sys2Proof Sys2Proof.Machine

/-! ## Helpers -/

/-- The registers after a command, when it answers a next state. -/
def after : Result → Option Regs
  | .next t => some t.regs
  | _ => none

/-- The reset state with other registers. -/
def withRegs (r : Regs) : State := { State.reset with regs := r }

/-- The reset state with a list of transactions to come. -/
def withEvents (l : List HostEvent) : State := { State.reset with script := l }

/-- Matrix A of 95_test_vectors V0: byte k is k. -/
def matA : Block := #v[0x00, 0x01, 0x02, 0x03, 0x04, 0x05, 0x06, 0x07, 0x08, 0x09, 0x0A, 0x0B, 0x0C, 0x0D, 0x0E, 0x0F]

/-- Matrix B of 95_test_vectors V0. -/
def matB : Block := #v[0x57, 0x83, 0x1A, 0xC3, 0xFF, 0x00, 0x01, 0x02, 0x10, 0x20, 0x40, 0x80, 0xAA, 0x55, 0xF0, 0x0F]

/-- Ser(T) of 95_test_vectors V0. -/
def matT : Block := #v[0x01, 0x05, 0x03, 0x02, 0x02, 0x01, 0x05, 0x03, 0x03, 0x02, 0x01, 0x05, 0x05, 0x03, 0x02, 0x01]

/-- RC_TEST of 95_test_vectors V0, a test instantiation only. -/
def rcTest : RoundConstants := fun r j => BitVec.ofNat 8 (0x10 * (r.val + 1) + j.val)

/-- The reset registers with MA and MR. -/
def regsWithMaMr (a m : Block) : Regs := { resetRegs with ma := a, mr := m }

/-- The reset registers with MA and MB. -/
def regsWithMaMb (a b : Block) : Regs := { resetRegs with ma := a, mb := b }

/-- A faulted register set: GFDIV by zero has been raised. -/
def faultedRegs : Regs := { resetRegs with status := 1, fa := 0x57 }

/-! ## Well-formedness (30_encoding R47): the one check refuses a round index of 6 or 7 -/

theorem test_wellFormed_refuses_raddrc_6 : Instr.wellFormed (.raddrc 6) = false := by decide
theorem test_wellFormed_refuses_raddrc_7 : Instr.wellFormed (.raddrc 7) = false := by decide
theorem test_wellFormed_refuses_round_6 : Instr.wellFormed (.round 6) = false := by decide
theorem test_wellFormed_refuses_round_7 : Instr.wellFormed (.round 7) = false := by decide
theorem test_wellFormed_accepts_round_5 : Instr.wellFormed (.round 5) = true := by decide

/-! ## Decoding: each constructor from a word written out from 30_encoding R48 -/

theorem test_decode_nop : decode 0b00000000 = .ok .nop := by decide
theorem test_decode_gfadd : decode 0b00010000 = .ok .gfadd := by decide
theorem test_decode_gfmul : decode 0b00010001 = .ok .gfmul := by decide
theorem test_decode_gfinv : decode 0b00010010 = .ok .gfinv := by decide
theorem test_decode_gfdeg : decode 0b00010011 = .ok .gfdeg := by decide
theorem test_decode_gfdiv : decode 0b00010100 = .ok .gfdiv := by decide
theorem test_decode_sbox : decode 0b00100000 = .ok .sbox := by decide
theorem test_decode_mzero : decode 0b00110000 = .ok .mzero := by decide
theorem test_decode_madd : decode 0b00110001 = .ok .madd := by decide
theorem test_decode_mmul : decode 0b00110010 = .ok .mmul := by decide
theorem test_decode_rsub : decode 0b01000000 = .ok .rsub := by decide
theorem test_decode_rshift : decode 0b01000001 = .ok .rshift := by decide
theorem test_decode_rdiff : decode 0b01000010 = .ok .rdiff := by decide
theorem test_decode_raddrc : decode 0b01010101 = .ok (.raddrc 5) := by decide
theorem test_decode_round : decode 0b01100011 = .ok (.round 3) := by decide
theorem test_decode_rounds : decode 0b01110000 = .ok .rounds := by decide
theorem test_decode_cmpr : decode 0b10000000 = .ok .cmpr := by decide
theorem test_decode_hinit : decode 0b10000001 = .ok .hinit := by decide
theorem test_decode_hupd : decode 0b10000010 = .ok .hupd := by decide
theorem test_decode_hfin : decode 0b10000011 = .ok .hfin := by decide
theorem test_decode_srst : decode 0b11111111 = .ok .srst := by decide
theorem test_decode_illegal_58 : decode 0x58 = .error (.illegalCommand 0x58) := by decide
theorem test_decode_illegal_84 : decode 0x84 = .error (.illegalCommand 0x84) := by decide
theorem test_decodeTableWord_row : decodeTableWord 8 0x63 = some (.round 3) := by decide
theorem test_withFetchWord_runs_first : after (step (State.reset.withFetchWord 8 0x13)) =
    some { resetRegs with dg := 0x80 } := by decide

/-! ## Field commands (95_test_vectors V2 to V5) -/

theorem test_gfadd : after (exec .gfadd (withRegs { resetRegs with fa := 0x57, fb := 0x83 })) =
    some { resetRegs with fa := 0x57, fb := 0x83, fr := 0xD4 } := by decide
theorem test_gfmul : after (exec .gfmul (withRegs { resetRegs with fa := 0x80, fb := 0xFF })) =
    some { resetRegs with fa := 0x80, fb := 0xFF, fr := 0xC6 } := by decide
theorem test_gfmul_two_reductions : mulMod 0x53 0xCA = 0xDD := by decide
theorem test_gfinv : after (exec .gfinv (withRegs { resetRegs with fa := 0x53 })) =
    some { resetRegs with fa := 0x53, fr := 0x68 } := by decide +kernel
theorem test_gfinv_of_zero : modInv 0 = .ok 0 := by decide
theorem test_gfdeg_top : after (exec .gfdeg (withRegs { resetRegs with wa := 0x8000 })) =
    some { resetRegs with wa := 0x8000, dg := 0x0F } := by decide
theorem test_gfdeg_of_zero : after (exec .gfdeg State.reset) = some { resetRegs with dg := 0x80 } := by decide
theorem test_gfdiv : after (exec .gfdiv (withRegs { resetRegs with wa := 0x2B79, wb := 0x012B })) =
    some { resetRegs with wa := 0x2B79, wb := 0x012B, wq := 0x002F, rm := 0x90 } := by decide +kernel
theorem test_gfdiv_wide_remainder : after (exec .gfdiv (withRegs { resetRegs with wa := 0x0300, wb := 0x0200 })) =
    some { resetRegs with wa := 0x0300, wb := 0x0200, status := 2 } := by decide +kernel

/-! ## Substitution box (V4) and matrices (V6) -/

theorem test_sbox : after (exec .sbox (withRegs { resetRegs with fa := 0x53 })) =
    some { resetRegs with fa := 0x53, fr := 0x4C } := by decide
theorem test_sbox_of_zero : subByte 0x00 = 0x34 := by decide
theorem test_mzero : after (exec .mzero (withRegs { resetRegs with ma := matA, mr := matB })) =
    some { resetRegs with ma := matA, mr := zeroBlock } := by decide
theorem test_madd : after (exec .madd (withRegs { resetRegs with ma := matA, mb := matT })) =
    some { regsWithMaMb matA matT with mr := #v[0x01, 0x04, 0x01, 0x01, 0x06, 0x04, 0x03, 0x04, 0x0B, 0x0B,
      0x0B, 0x0E, 0x09, 0x0E, 0x0C, 0x0E] } := by decide +kernel
theorem test_mmul_operand_order : matMul matA matT =
    #v[0x0B, 0x00, 0x01, 0x0A, 0x1F, 0x14, 0x15, 0x1E, 0x23, 0x28, 0x29, 0x22, 0x37, 0x3C, 0x3D, 0x36] := by
  decide +kernel
theorem test_mmul_full_bytes : matMul matB matA =
    #v[0x19, 0x14, 0x03, 0x0E, 0x10, 0xEC, 0xC3, 0x3F, 0x2C, 0xDC, 0xE7, 0x17, 0x6A, 0x6A, 0x6A, 0x6A] := by
  decide +kernel

/-! ## Round commands (V7, V8); RC_TEST where the constants are read -/

theorem test_rsub : after (exec .rsub (withRegs { resetRegs with ma := matB })) =
    some (regsWithMaMr matB #v[0x7F, 0xCF, 0x04, 0xB3, 0x76, 0x34, 0x82, 0x6F, 0x1A, 0x23, 0xAA, 0x7B, 0x57, 0xF2, 0x88, 0xFA]) := by
  decide +kernel
theorem test_rshift : after (exec .rshift (withRegs { resetRegs with ma := matB })) =
    some (regsWithMaMr matB #v[0x57, 0x83, 0x1A, 0xC3, 0x00, 0x01, 0x02, 0xFF, 0x40, 0x80, 0x10, 0x20, 0x0F, 0xAA, 0x55, 0xF0]) := by
  decide +kernel
theorem test_rdiff : after (exec .rdiff (withRegs { resetRegs with ma := matA })) =
    some (regsWithMaMr matA #v[0x14, 0x11, 0x1E, 0x1B, 0x38, 0x3D, 0x32, 0x37, 0x3C, 0x39, 0x36, 0x33, 0x10, 0x15, 0x1A, 0x1F]) := by
  decide +kernel
theorem test_raddrc : raddrcEffect rcTest 5 { resetRegs with ma := matA } =
    .ok (regsWithMaMr matA #v[0x60, 0x60, 0x60, 0x60, 0x04, 0x05, 0x06, 0x07, 0x08, 0x09, 0x0A, 0x0B, 0x0C, 0x0D, 0x0E, 0x0F]) := by
  decide +kernel
theorem test_raddrc_6_faults : after (exec (.raddrc 6) State.reset) = some { resetRegs with status := 4 } := by decide
theorem test_round : roundEffect rcTest 0 { resetRegs with ma := matA, mb := matB } = .ok (regsWithMaMb
    #v[0x25, 0x1A, 0x81, 0x72, 0xBF, 0x67, 0xAA, 0x65, 0x34, 0xB8, 0x20, 0x38, 0xD8, 0x4E, 0xC1, 0x26]
    #v[0xB4, 0x2A, 0x9C, 0x1A, 0x04, 0x15, 0x82, 0x42, 0x18, 0xB6, 0xAF, 0xF7, 0xA9, 0xCC, 0xA2, 0x5B]) := by
  decide +kernel
theorem test_round_7_faults : after (exec (.round 7) State.reset) = some { resetRegs with status := 4 } := by decide
theorem test_rounds : roundFunction rcTest matA matB =
    #v[0xA7, 0xD4, 0x41, 0xE3, 0xDF, 0x5D, 0x59, 0x4E, 0x2F, 0x7A, 0x04, 0xF9, 0xC4, 0xEF, 0xB4, 0x0E] := by
  decide +kernel

/-! ## Hash commands (V9, V11, V12, P6): what enters the compression, for every value of RC -/

/-- The last column-major placement and feed-in of V9, taken apart there for H = B and BUF = 00..0F. -/
theorem test_cmpr_feed_in : matAdd (blockToMatrix matA) matB =
    #v[0x57, 0x87, 0x12, 0xCF, 0xFE, 0x05, 0x08, 0x0F, 0x12, 0x26, 0x4A, 0x8E, 0xA9, 0x52, 0xFB, 0x00] := by
  decide +kernel
/-- The feed-forward of V9: M6 + A + H. -/
theorem test_cmpr_feed_forward : matAdd (matAdd #v[0xDB, 0xFB, 0xB2, 0x4C, 0x4E, 0xC8, 0x8A, 0x74, 0x66, 0x89, 0x4A, 0x8F,
    0x0D, 0xC5, 0x7D, 0x54] (blockToMatrix matA)) matB =
    #v[0x8C, 0x7C, 0xA0, 0x83, 0xB0, 0xCD, 0x82, 0x7B, 0x74, 0xAF, 0x00, 0x01, 0xA4, 0x97, 0x86, 0x54] := by
  decide +kernel
theorem test_hinit : after (exec .hinit (withRegs { resetRegs with fa := 0x41, h := matA, buf := matB, len := 0x1234 })) =
    some { resetRegs with fa := 0x41 } := by decide
theorem test_hupd_stores_the_byte : (hupdEffect rcTest { resetRegs with fa := 0x41, len := 0x0001 }).map (fun r =>
    (r.buf, r.len)) = .ok (zeroBlock.set 1 0x41, 0x0002) := by decide
/-- F15: at LEN = 0xFFFF the byte goes to BUF[15], LEN wraps, and the completed block is cleared. -/
theorem test_hupd_wraps_and_clears : (hupdEffect rcTest { resetRegs with fa := 0xEE, len := 0xFFFF }).map (fun r =>
    (r.buf, r.len)) = .ok (zeroBlock, 0x0000) := by decide
/-- S11: the padded message of "AbCxYz" is the block HFIN folds. -/
theorem test_hfin_pads : withLength 0x0006 (zeroFrom (fillIndex 0x0006) #v[0x41, 0x62, 0x43, 0x78, 0x59, 0x7A, 0x99, 0, 0,
    0, 0, 0, 0, 0, 0, 0]) = #v[0x41, 0x62, 0x43, 0x78, 0x59, 0x7A, 0, 0, 0, 0, 0, 0, 0, 0, 0, 0x06] := by decide +kernel
theorem test_hfin_clears : (hfinEffect rcTest { resetRegs with buf := matA, len := 0x1234 }).map (fun r =>
    (r.buf, r.len)) = .ok (zeroBlock, 0x0000) := by decide
/-- S7: a 16-byte message pads to 32 bytes with last byte 0x10. -/
theorem test_pad_block_aligned : pad matA.toList = matA.toList ++ [0, 0, 0, 0, 0, 0, 0, 0, 0, 0, 0, 0, 0, 0, 0, 0x10] := by
  decide +kernel

/-! ## System commands and the bus (V12) -/

theorem test_nop : after (exec .nop (withRegs { resetRegs with fa := 0x57, ma := matA })) =
    some { resetRegs with fa := 0x57, ma := matA } := by decide
theorem test_srst_leaves_the_faulted_state : after (exec .srst (withRegs faultedRegs)) = some resetRegs := by decide
/-- F6: in the faulted state a command is ignored and the first fault stays. -/
theorem test_faulted_ignores_illegal_byte : after (busWrite 0x00 0x01 (withRegs faultedRegs)) = some faultedRegs := by decide
theorem test_faulted_ignores_register_write : after (busWrite 0x02 0x77 (withRegs faultedRegs)) = some faultedRegs := by
  decide
/-- F1: an illegal byte. -/
theorem test_illegal_byte_faults : after (busWrite 0x00 0x01 State.reset) = some { resetRegs with status := 4 } := by decide
/-- F12: the low byte at the lower address. -/
theorem test_wide_high_half : after (busWrite 0x09 0x12 (withRegs { resetRegs with wa := 0x0034 })) =
    some { resetRegs with wa := 0x1234 } := by decide
/-- F8, F9: read-only and reserved addresses ignore writes. -/
theorem test_read_only_write_ignored : after (busWrite 0x04 0xAA State.reset) = some resetRegs := by decide
theorem test_reserved_write_ignored : after (busWrite 0x60 0x55 State.reset) = some resetRegs := by decide

/-! ## Witnesses: states and operands that meet every hypothesis of a statement, at the ends of its ranges -/

/-- A non-faulted state with a value in every register that a witness below reads. -/
def liveRegs : Regs := { resetRegs with fa := 0xFF, fb := 0x80, wa := 0xFFFF, wb := 0x0100, ma := matA, mb := matB }

theorem witness_live : faulted liveRegs = false ∧ faulted resetRegs = false ∧ faulted faultedRegs = true := by decide

theorem witness_SrstAndResetInputRestoreReset :
    (withEvents [.write 0x00 0xFF]).script = .write 0x00 0xFF :: [] ∧
    (withEvents [.resetInput]).script = .resetInput :: [] := by decide

theorem witness_EveryStepKeepsStatusAndDegreeLegal : (State.reset.withFetchWord 8 0x14).inv = true ∧
    ∃ t, step (State.reset.withFetchWord 8 0x14) = .next t := ⟨by decide, _, rfl⟩

theorem witness_EncodeOfDecodeIsTheByte : decode 0x57 = .ok (.raddrc 7) ∧ decode 0xFF = .ok .srst := by decide

theorem witness_IllegalBytesAreTheListedOnesAndFault : faulted (withEvents [.write 0x00 0x01]).regs = false ∧
    (withEvents [.write 0x00 0x01]).script = .write 0x00 0x01 :: [] ∧ listedIllegal 0x01 = true ∧
    listedIllegal 0xFE = true ∧ listedIllegal 0x00 = false ∧ listedIllegal 0xFF = false ∧
    (withEvents [.write 0x00 0x83]).script = .write 0x00 0x83 :: [] ∧
    ¬ (listedIllegal 0x83 = true ∨ (0x83 : Byte) = 0x56 ∨ (0x83 : Byte) = 0x57 ∨ (0x83 : Byte) = 0x66 ∨
      (0x83 : Byte) = 0x67) ∧ ∃ t, step (withEvents [.write 0x00 0x83]) = .next t :=
  ⟨by decide, by decide, by decide, by decide, by decide, by decide, by decide, by decide, _, rfl⟩

theorem witness_StepExecutesTheDecodedCommand : (withEvents [.write 0x00 0x67]).script = .write 0x00 0x67 :: [] ∧
    decode 0x67 = .ok (.round 7) ∧ decodeTableWord 8 0xFF = some .srst := by decide

theorem witness_StepCarriesOutOneTransaction : (withEvents [.read 0xFF]).script = .read 0xFF :: [] ∧
    (withEvents [.write 0xFF 0x00]).script = .write 0xFF 0x00 :: [] ∧ State.reset.script = [] := by decide

theorem witness_BusReadAnswersTheAddressMap : ((0x0F : Byte) = 0x0F ∨ 0x60 ≤ (0x0F : Byte).toNat) ∧
    0x60 ≤ (0x60 : Byte).toNat ∧ 0x60 ≤ (0xFF : Byte).toNat ∧
    (withEvents [.read 0x5F]).script = .read 0x5F :: [] := by decide

theorem decode_0xFE_rejected : ∀ i : Instr, decode 0xFE ≠ .ok i := by
  intro i
  rw [show decode 0xFE = .error (.illegalCommand 0xFE) by decide]
  exact nofun

theorem witness_BusWriteFollowsItsRule : faulted faultedRegs = true ∧ faulted resetRegs = false ∧
    decode 0x67 = .ok (.round 7) ∧ (∀ i : Instr, decode 0xFE ≠ .ok i) ∧ access (locate 0x02) = .rw ∧
    access (locate 0x5F) = .rw ∧ access (locate 0x01) ≠ .rw ∧ access (locate 0x60) ≠ .rw :=
  ⟨by decide, by decide, by decide, decode_0xFE_rejected, by decide, by decide, by decide, by decide⟩

theorem witness_WideRegistersAreWrittenByHalves : faulted liveRegs = false := by decide

/-- A faulted state with one transaction to come. -/
def faultedWith (e : HostEvent) : State := { withEvents [e] with regs := faultedRegs }

theorem witness_FaultedStateIgnoresAllButReset : faulted (faultedWith (.write 0x00 0xFE)).regs = true ∧
    (faultedWith (.write 0x00 0xFE)).script = .write 0x00 0xFE :: [] ∧
    ¬ ((0x00 : Byte) = 0x00 ∧ (0xFE : Byte) = 0xFF) ∧ ¬ ((0x01 : Byte) = 0x00 ∧ (0xFF : Byte) = 0xFF) ∧
    (faultedWith (.read 0x01)).script = .read 0x01 :: [] ∧
    (faultedWith (.write 0x00 0xFF)).script = .write 0x00 0xFF :: [] ∧
    (faultedWith .resetInput).script = .resetInput :: [] := by decide

theorem witness_FaultEntryWritesStatusAlone : faulted State.reset.regs = false ∧
    ∃ t, busWrite 0x00 0x14 State.reset = .next t ∧ faulted t.regs = true := ⟨by decide, _, rfl, by decide⟩

theorem witness_DivisionByZeroIsGfdivWithZeroDivisor : faulted State.reset.regs = false ∧ State.reset.regs.wb = 0 ∧
    ∃ t, busWrite 0x00 0x14 State.reset = .next t ∧ t.regs.status = 1 := ⟨by decide, by decide, _, rfl, by decide⟩

/-- V5: 0x0100 divided by 0x0200 leaves 0x0100, the smallest remainder that does not fit. -/
def overflowState : State := withRegs { resetRegs with wa := 0x0100, wb := 0x0200 }

theorem witness_RemainderOverflowIsGfdivWithWideRemainder : faulted overflowState.regs = false ∧
    overflowState.regs.wb ≠ 0 ∧
    overflowState.regs.wa.toNat = clMul (0 : Wide).toNat overflowState.regs.wb.toNat ^^^ (0x0100 : Wide).toNat ∧
    (0x0100 : Wide).toNat < 2 ^ overflowState.regs.wb.toNat.log2 ∧ 0xFF < (0x0100 : Wide).toNat ∧
    ∃ t, busWrite 0x00 0x14 overflowState = .next t ∧ t.regs.status = 2 :=
  ⟨by decide, by decide, by decide +kernel, by decide +kernel, by decide, _, rfl, by decide +kernel⟩

theorem witness_HashPathKeepsStatusZero : State.reset.regs.status = 0 ∧
    hashPathEvent (.write 0x00 0x65) = true ∧ hashPathEvent (.write 0x00 0x12) = true ∧
    hashPathEvent (.write 0x5F 0xFF) = true ∧ hashPathEvent (.read 0x00) = true ∧
    hashPathEvent (.write 0x00 0x66) = false ∧
    (withEvents [.write 0x00 0x65]).script = .write 0x00 0x65 :: [] ∧
    ∃ t, step (withEvents [.write 0x00 0x65]) = .next t :=
  ⟨by decide, by decide, by decide, by decide, by decide, by decide, by decide, _, rfl⟩

theorem witness_CommandsWriteOnlyTheirRegisters : faulted overflowState.regs = false ∧
    (∃ t, exec .gfadd overflowState = .next t ∧ faulted t.regs = false ∧ RegName.fa ∉ writeSet .gfadd) ∧
    ∃ t, exec .gfdiv overflowState = .next t ∧ faulted t.regs = true ∧ RegName.wq ≠ .status :=
  ⟨by decide, ⟨_, rfl, by decide, by decide⟩, _, rfl, by decide +kernel, by decide⟩

/-- Two states that agree on WA and WB and differ elsewhere. -/
theorem witness_CommandsDependOnlyOnTheirOperands : faulted overflowState.regs = false ∧
    faulted (withRegs { overflowState.regs with fa := 1 }).regs = false ∧
    (∀ n : RegName, n ∈ readSet .gfdiv →
      agree overflowState.regs (withRegs { overflowState.regs with fa := 1 }).regs n = true) ∧
    (∃ t, exec .gfdiv overflowState = .next t) ∧
    ∃ t, exec .gfdiv (withRegs { overflowState.regs with fa := 1 }) = .next t :=
  ⟨by decide, by decide, by decide, ⟨_, rfl⟩, _, rfl⟩

theorem witness_GfaddWritesTheXor : faulted (withRegs liveRegs).regs = false := by decide
theorem witness_GfmulWritesTheReducedProduct : faulted (withRegs liveRegs).regs = false := by decide
theorem witness_ClMulIsTheBitConvolution : (1 : Nat) ≠ 0 ∧ (0xFF : Nat) ≠ 0 := by decide
theorem witness_ReductionIdentitiesAreRemainders : ((8, 0x2B) : Nat × Byte) ∈ reductionTable ∧
    ((14, 0xE5) : Nat × Byte) ∈ reductionTable := by decide
theorem witness_FieldLawsHold : (0x02 : Byte) ≠ 0 ∧ mulMod 0x02 0x95 = 1 := by decide
theorem witness_GfinvWritesTheInverse : faulted (withRegs liveRegs).regs = false ∧ liveRegs.fa ≠ 0 ∧
    mulMod liveRegs.fa 0xE0 = 1 ∧ resetRegs.fa = 0 := by decide

theorem witness_GfdegWritesTheDegree : faulted State.reset.regs = false ∧ State.reset.regs.wa = 0 ∧
    faulted (withRegs liveRegs).regs = false ∧ liveRegs.wa.getLsbD 15 = true ∧
    (∀ j : Nat, 15 < j → liveRegs.wa.getLsbD j = false) ∧ (1 : Wide).getLsbD 0 = true ∧
    ∀ j : Nat, 0 < j → (1 : Wide).getLsbD j = false :=
  ⟨by decide, by decide, by decide, by decide, fun _ h => BitVec.getLsbD_of_ge _ _ h, by decide, fun j h => by
    rcases Nat.lt_or_ge j 16 with h16 | h16
    · interval_cases j <;> rfl
    · exact BitVec.getLsbD_of_ge _ _ h16⟩

/-- V5: 0xFFFF divided by 0x0100 leaves 0xFF, the largest remainder that fits. -/
theorem witness_GfdivStoresQuotientAndRemainder : faulted (withRegs liveRegs).regs = false ∧ liveRegs.wb ≠ 0 ∧
    liveRegs.wa.toNat = clMul (0x00FF : Wide).toNat liveRegs.wb.toNat ^^^ (0x00FF : Wide).toNat ∧
    (0x00FF : Wide).toNat < 2 ^ liveRegs.wb.toNat.log2 ∧ (0x00FF : Wide).toNat ≤ 0xFF :=
  ⟨by decide, by decide, by decide +kernel, by decide +kernel, by decide⟩

theorem witness_LongDivisionIsEuclidean : (0x8000 : Wide) ≠ 0 ∧ (0x0001 : Wide) ≠ 0 := by decide

theorem witness_SboxWritesTheSubstitutedByte : faulted State.reset.regs = false ∧ State.reset.regs.fa = 0 ∧
    faulted (withRegs liveRegs).regs = false ∧ mulMod liveRegs.fa 0xE0 = 1 := by decide

theorem witness_SboxTableIsAPermutation : subByte 0x18 = subByte 0x18 := rfl
theorem witness_MzeroClearsTheResult : faulted (withRegs liveRegs).regs = false := by decide

theorem witness_MaddAddsBytewise : faulted (withRegs liveRegs).regs = false ∧
    ∀ k : Fin 16, (matAdd liveRegs.ma liveRegs.mb)[k] = liveRegs.ma[k] ^^^ liveRegs.mb[k] := by decide +kernel

theorem witness_MmulMultipliesRowByColumn : faulted (withRegs liveRegs).regs = false ∧
    ∀ i j : Fin 4, (matMul liveRegs.ma liveRegs.mb)[4 * i.val + j.val] =
      mulMod liveRegs.ma[4 * i.val] liveRegs.mb[j.val] ^^^ mulMod liveRegs.ma[4 * i.val + 1] liveRegs.mb[4 + j.val] ^^^
      mulMod liveRegs.ma[4 * i.val + 2] liveRegs.mb[8 + j.val] ^^^
      mulMod liveRegs.ma[4 * i.val + 3] liveRegs.mb[12 + j.val] := by decide +kernel

theorem witness_RsubSubstitutesEveryByte : faulted (withRegs liveRegs).regs = false ∧
    ∀ k : Fin 16, (substitute liveRegs.ma)[k] = subByte liveRegs.ma[k] := by decide +kernel

theorem witness_RshiftRotatesTheRows : faulted (withRegs liveRegs).regs = false := by decide

theorem witness_RdiffMultipliesByTheCirculant : faulted (withRegs liveRegs).regs = false ∧
    ∀ j : Fin 4,
      (diffuse liveRegs.ma)[j.val] = mulMod 1 liveRegs.ma[j.val] ^^^ mulMod 5 liveRegs.ma[4 + j.val] ^^^
        mulMod 3 liveRegs.ma[8 + j.val] ^^^ mulMod 2 liveRegs.ma[12 + j.val] ∧
      (diffuse liveRegs.ma)[4 + j.val] = mulMod 2 liveRegs.ma[j.val] ^^^ mulMod 1 liveRegs.ma[4 + j.val] ^^^
        mulMod 5 liveRegs.ma[8 + j.val] ^^^ mulMod 3 liveRegs.ma[12 + j.val] ∧
      (diffuse liveRegs.ma)[8 + j.val] = mulMod 3 liveRegs.ma[j.val] ^^^ mulMod 2 liveRegs.ma[4 + j.val] ^^^
        mulMod 1 liveRegs.ma[8 + j.val] ^^^ mulMod 5 liveRegs.ma[12 + j.val] ∧
      (diffuse liveRegs.ma)[12 + j.val] = mulMod 5 liveRegs.ma[j.val] ^^^ mulMod 3 liveRegs.ma[4 + j.val] ^^^
        mulMod 2 liveRegs.ma[8 + j.val] ^^^ mulMod 1 liveRegs.ma[12 + j.val] := by decide +kernel

theorem witness_RaddrcAddsTheConstantRow : faulted (withRegs liveRegs).regs = false ∧ (5 : BitVec 3).toNat < 6 ∧
    6 ≤ (6 : BitVec 3).toNat ∧ 6 ≤ (7 : BitVec 3).toNat ∧
    ∃ m : Block, (∀ j : Fin 4, m[j.val] = liveRegs.ma[j.val] ^^^ Config.rc 5 j) ∧
      ∀ k : Fin 16, 4 ≤ k.val → m[k] = liveRegs.ma[k] := by
  refine ⟨by decide, by decide, by decide, by decide,
    Vector.ofFn fun k : Fin 16 => if h : k.val < 4 then liveRegs.ma[k] ^^^ Config.rc 5 ⟨k.val, h⟩ else liveRegs.ma[k],
    ?_, ?_⟩
  · intro j
    simp
  · intro k hk
    simp [Nat.not_lt.mpr hk]

theorem witness_RoundUpdatesBothMatricesInPlace : faulted (withRegs liveRegs).regs = false ∧
    (5 : BitVec 3).toNat < 6 ∧ 6 ≤ (6 : BitVec 3).toNat ∧
    ∃ k m : Block, k = addRoundConstant Config.rc (matMul diffusionMatrix (shiftRows (substitute liveRegs.ma))) 5 ∧
      m = matAdd (matMul diffusionMatrix (shiftRows (substitute liveRegs.mb))) k :=
  ⟨by decide, by decide, by decide, _, _, rfl, rfl⟩

/-- The pairs (K, M) before each round, from (MA, MB). -/
def roundSeq (n : Nat) : Block × Block := (roundOrder.take n).foldl (roundPair Config.rc) (matA, matB)

theorem witness_RoundsRunsSixRounds : faulted (withRegs liveRegs).regs = false ∧ (roundSeq 0).1 = liveRegs.ma ∧
    (roundSeq 0).2 = liveRegs.mb ∧
    ∀ r : Fin 6, (roundSeq (r.val + 1)).1 =
        addRoundConstant Config.rc (matMul diffusionMatrix (shiftRows (substitute (roundSeq r.val).1))) r ∧
      (roundSeq (r.val + 1)).2 = matAdd (matMul diffusionMatrix (shiftRows (substitute (roundSeq r.val).2)))
        (roundSeq (r.val + 1)).1 := by
  refine ⟨by decide, rfl, rfl, fun r => ?_⟩
  fin_cases r <;> exact ⟨rfl, rfl⟩

/-- Six ROUND commands to come. -/
def sixRounds : State := { withRegs liveRegs with script :=
  [cmd (.round 0), cmd (.round 1), cmd (.round 2), cmd (.round 3), cmd (.round 4), cmd (.round 5)] ++ [] }

theorem witness_RoundCommandsComposeToRounds : faulted sixRounds.regs = false ∧ (5 : BitVec 3).toNat < 6 ∧
    (∃ t, core.run 6 sixRounds = .next t) ∧ (∃ u, exec .rounds sixRounds = .next u) ∧
    ∃ t a b c d : State, exec (.round 5) sixRounds = .next t ∧ exec .rsub sixRounds = .next a ∧
      exec .rshift { a with regs := { a.regs with ma := a.regs.mr } } = .next b ∧
      exec .rdiff { b with regs := { b.regs with ma := b.regs.mr } } = .next c ∧
      exec (.raddrc 5) { c with regs := { c.regs with ma := c.regs.mr } } = .next d :=
  ⟨by decide, by decide, ⟨_, rfl⟩, ⟨_, rfl⟩, _, _, _, _, _, rfl, rfl, rfl, rfl, rfl⟩

theorem witness_CmprFoldsTheBlockIntoH : ∃ a m0 m6 h' : Block, faulted (withRegs liveRegs).regs = false ∧
    (∀ row col : Fin 4, a[4 * row.val + col.val] = liveRegs.buf[row.val + 4 * col.val]) ∧
    (∀ k : Fin 16, m0[k] = a[k] ^^^ liveRegs.h[k]) ∧ m6 = roundFunction Config.rc liveRegs.h m0 ∧
    ∀ k : Fin 16, h'[k] = m6[k] ^^^ a[k] ^^^ liveRegs.h[k] :=
  ⟨zeroBlock, zeroBlock, roundFunction Config.rc liveRegs.h zeroBlock,
    Vector.ofFn fun k : Fin 16 => (roundFunction Config.rc liveRegs.h zeroBlock)[k] ^^^ zeroBlock[k] ^^^ liveRegs.h[k],
    by decide, by decide, by decide, rfl, fun k => by simp⟩

theorem witness_HinitStartsAHash : faulted (withRegs liveRegs).regs = false := by decide

theorem witness_HupdAbsorbsOneByte : faulted { liveRegs with len := 0xFFFE } = false ∧ (0xFFFE : Wide).toNat % 16 ≠ 15 ∧
    (0x0000 : Wide).toNat % 16 ≠ 15 ∧ faulted { liveRegs with len := 0xFFFF } = false ∧
    (0xFFFF : Wide).toNat % 16 = 15 := by decide

/-- A register set with 14, or 15, bytes in BUF and a length above 255. -/
def tailRegs (len : Wide) : Regs := { resetRegs with buf := matA, len := len }

theorem witness_HfinPadsAndFolds : faulted (tailRegs 0x123E) = false ∧ (tailRegs 0x123E).len.toNat % 16 ≤ 14 ∧
    (∃ w : Block, (∀ k : Fin 16, k.val < (tailRegs 0x123E).len.toNat % 16 → w[k] = (tailRegs 0x123E).buf[k]) ∧
      (∀ k : Fin 16, (tailRegs 0x123E).len.toNat % 16 ≤ k.val → k.val < 14 → w[k] = 0) ∧
      w[14] = BitVec.ofNat 8 ((tailRegs 0x123E).len.toNat / 256) ∧
      w[15] = BitVec.ofNat 8 ((tailRegs 0x123E).len.toNat % 256)) ∧
    faulted (tailRegs 0x123F) = false ∧ (tailRegs 0x123F).len.toNat % 16 = 15 ∧
    (∃ w : Block, (∀ k : Fin 16, k.val < 15 → w[k] = (tailRegs 0x123F).buf[k]) ∧ w[15] = 0) ∧
    ∃ v : Block, (∀ k : Fin 16, k.val < 14 → v[k] = 0) ∧
      v[14] = BitVec.ofNat 8 ((tailRegs 0x123F).len.toNat / 256) ∧
      v[15] = BitVec.ofNat 8 ((tailRegs 0x123F).len.toNat % 256) :=
  ⟨by decide, by decide, ⟨(matA.set 14 0x12).set 15 0x3E, by decide +kernel⟩, by decide, by decide,
    ⟨matA.set 15 0, by decide +kernel⟩, ⟨(zeroBlock.set 14 0x12).set 15 0x3F, by decide +kernel⟩⟩

theorem witness_PaddingHasTheStatedShape : ([] : List Byte).length ≤ 0 ∧ 0 + 2 < (pad []).length ∧
    matA.toList.length ≤ 29 ∧ 29 + 2 < (pad matA.toList).length := by decide +kernel

theorem witness_StreamingCommandsComputeTheHash :
    faulted (withEvents (hashSequence [] ++ [.read 0x40])).regs = false ∧
    (withEvents (hashSequence [] ++ [.read 0x40])).script = hashSequence [] ++ [.read 0x40] ∧
    (withEvents (hashSequence [0x41, 0x62] ++ [])).script = hashSequence [0x41, 0x62] ++ [] := by decide

theorem witness_HashScriptReadsTheDigestInOrder : faulted (withEvents (hashScript [0x41] ++ [])).regs = false ∧
    (withEvents (hashScript [0x41] ++ [])).script = hashScript [0x41] ++ [] := by decide

end Sys2Proof.Tests
end

/-!
# The register space on the bus (20_memory R33, R35)

What BusWrite does by case, as rules over `writeLocation`: in the faulted state, to CMD, and to a register; and what a
step that carries out a register write does. The two obligations of the family are assembled from these rules.
-/

namespace Sys2Proof.Machine

/-! ## A write to CMD -/

/-- SRST has one code (30_encoding R48). -/
theorem decode_eq_srst_iff : ∀ c : Byte, decode c = .ok .srst ↔ c = 0xFF := by decide

theorem decode_eq_error_of_ne_ok {c : Byte} (h : ∀ i : Instr, decode c ≠ .ok i) : ∃ e, decode c = .error e := by
  cases hd : decode c with
  | ok i => exact absurd hd (h i)
  | error e => exact ⟨e, rfl⟩

/-- In the faulted state CMD takes the byte of SRST and ignores every other, legal or not (60_exceptions R148). -/
theorem writeCommand_of_faulted {s : State} (h : faulted s.regs = true) (c : Byte) :
    writeCommand c s = if c = 0xFF then exec .srst s else .next s := by
  split_ifs with hc
  · exact writeCommand_of_ok ((decode_eq_srst_iff c).mpr hc) s
  · cases hd : decode c with
    | ok i =>
      have hi : i ≠ .srst := fun hi => hc ((decode_eq_srst_iff c).mp (hi ▸ hd))
      rw [writeCommand_of_ok hd, exec_of_faulted hi h]
    | error e => rw [writeCommand_of_error hd, command_of_faulted h]

/-- A byte that is no command takes the fault IllegalCommand, precisely (60_exceptions R144, R147). -/
theorem writeCommand_of_ne_ok {s : State} (h : faulted s.regs = false) {c : Byte}
    (hc : ∀ i : Instr, decode c ≠ .ok i) :
    writeCommand c s = .next (s.setRegs (s.regs.setStatus 4)) := by
  obtain ⟨e, hd⟩ := decode_eq_error_of_ne_ok hc
  rw [writeCommand_of_error hd, command_of_live h]
  rfl

/-! ## A write to a register -/

/-- In the faulted state BusWrite is SRST's byte written to CMD, or nothing (20_memory R33). -/
theorem busWrite_of_faulted {s : State} (h : faulted s.regs = true) (addr d : Byte) :
    busWrite addr d s = if addr = 0x00 ∧ d = 0xFF then exec .srst s else .next s := by
  by_cases ha : addr = 0x00
  · subst ha
    rw [busWrite_cmd, writeCommand_of_faulted h]
    simp only [true_and]
  · rw [busWrite_of_ne ha, storeByte_of_faulted h, if_neg fun hc => ha hc.1]

/-- Outside the faulted state a write to any address but CMD's is the location's. -/
theorem busWrite_of_live {s : State} (h : faulted s.regs = false) {addr : Byte} (ha : addr ≠ 0x00) (d : Byte) :
    busWrite addr d s = .next (s.setRegs (writeLocation s.regs d (locate addr))) := by
  rw [busWrite_of_ne ha, storeByte_of_live h]

/-- CMD's address is not read-write (20_memory R31). -/
theorem ne_cmd_of_access_rw {addr : Byte} (h : access (locate addr) = .rw) : addr ≠ 0x00 := by
  rintro rfl
  exact absurd h (by decide)

/-- No other address names the location of a read-write address (20_memory R31). -/
theorem locate_eq_iff_of_access_rw {addr : Byte} (h : access (locate addr) = .rw) (b : Byte) :
    locate b = locate addr ↔ b = addr := by
  have hr : locate addr ≠ .reserved := fun hr => by simp [hr, access] at h
  constructor
  · intro hb
    rw [← addressOf_locate b (hb ▸ hr), hb, addressOf_locate addr hr]
  · exact congrArg locate

/-- A read-write byte written is the one byte of the register space that reads otherwise than before. -/
theorem busRead_setRegs_writeLocation (s : State) (d : Byte) {addr : Byte} (h : access (locate addr) = .rw) (b : Byte) :
    busRead b (s.setRegs (writeLocation s.regs d (locate addr))) = if b = addr then d else busRead b s := by
  simp only [busRead, State.setRegs_regs, readLocation_writeLocation s.regs d h, locate_eq_iff_of_access_rw h]

/-- Settles O12: the five clauses are the rules above, one for each case of R33. -/
theorem busWriteFollowsItsRule : Obligations.BusWriteFollowsItsRule := by
  refine ⟨fun _ addr data hf => busWrite_of_faulted hf addr data, ?command, ?illegal, ?readWrite, ?ignored⟩
  case command =>
    intro s data i _ hd
    rw [busWrite_cmd, writeCommand_of_ok hd]
  case illegal =>
    intro s data hf hd
    rw [busWrite_cmd, writeCommand_of_ne_ok hf hd]
    rfl
  case readWrite =>
    intro s addr data hf hrw
    exact ⟨_, busWrite_of_live hf (ne_cmd_of_access_rw hrw) data, busRead_setRegs_writeLocation s data hrw⟩
  case ignored =>
    intro s addr data hf ha hrw
    rw [busWrite_of_live hf ha, writeLocation_of_not_rw _ _ hrw]
    rfl

/-! ## The halves of a 16-bit register -/

/-- Low half, then high half: the register's old value is gone. -/
theorem withHigh_withLow (w : Wide) (hi lo : Byte) : withHigh (withLow w lo) hi = joinBytes hi lo := by
  rw [withHigh, lowByte_withLow]

/-- High half, then low half: the register's old value is gone. -/
theorem withLow_withHigh (w : Wide) (hi lo : Byte) : withLow (withHigh w hi) lo = joinBytes hi lo := by
  rw [withLow, highByte_withHigh]

/-- No register write reaches STATUS, so none clears or raises a fault (20_memory R33). -/
theorem writeLocation_status (r : Regs) (d : Byte) (loc : Location) : (writeLocation r d loc).status = r.status := by
  cases loc <;> rfl

/-- A step whose transaction writes a register takes it from the list and makes the location's write. -/
theorem step_write_of_live {s : State} (h : faulted s.regs = false) {addr : Byte} (ha : addr ≠ 0x00) (d : Byte)
    (rest : List HostEvent) :
    step { s with script := .write addr d :: rest } =
      .next { s with regs := writeLocation s.regs d (locate addr), script := rest } := by
  rw [step_cons rfl, carryOut_write]
  exact busWrite_of_live (s := s.withScript rest) h ha d

theorem core_run_succ {s t : State} (h : step s = .next t) (k : Nat) : core.run (k + 1) s = core.run k t := by
  have hstep : core.step s = .next t := h
  simp only [Host.Core.run, hstep]

/-- Two register writes in a row are carried out one on the other: the first raises no fault that would stop the
second. -/
theorem core_run_two_writes {s : State} (h : faulted s.regs = false) {a b : Byte} (ha : a ≠ 0x00) (hb : b ≠ 0x00)
    {d e : Byte} {r : Regs} (hr : writeLocation (writeLocation s.regs d (locate a)) e (locate b) = r)
    (rest : List HostEvent) :
    core.run 2 { s with script := .write a d :: .write b e :: rest } = .next { s with regs := r, script := rest } := by
  subst hr
  have hlive : faulted (s.setRegs (writeLocation s.regs d (locate a))).regs = false := by
    rw [State.setRegs_regs, faulted_congr (writeLocation_status s.regs d (locate a)), h]
  exact (core_run_succ (step_write_of_live h ha d (.write b e :: rest)) 1).trans
    (core_run_succ (step_write_of_live hlive hb e rest) 0)

/-- Settles O14: a half written alone is its location's write; after two writes in either order the register holds the
whole value, by `withHigh_withLow` and `withLow_withHigh`. -/
theorem wideRegistersAreWrittenByHalves : Obligations.WideRegistersAreWrittenByHalves := by
  refine ⟨fun s => ?reads, fun s lo hi h => ⟨?oneHalf, fun rest => ?bothHalves⟩⟩
  case reads =>
    exact ⟨joinBytes_highByte_lowByte _, joinBytes_highByte_lowByte _, joinBytes_highByte_lowByte _,
      joinBytes_highByte_lowByte _⟩
  case oneHalf =>
    refine ⟨?_, ?_, ?_, ?_, ?_, ?_⟩ <;> exact busWrite_of_live h (by decide) _
  case bothHalves =>
    refine ⟨?_, ?_, ?_, ?_, ?_, ?_⟩ <;> refine core_run_two_writes h (by decide) (by decide) ?_ rest
    · exact congrArg s.regs.setWa (withHigh_withLow _ hi lo)
    · exact congrArg s.regs.setWa (withLow_withHigh _ hi lo)
    · exact congrArg s.regs.setWb (withHigh_withLow _ hi lo)
    · exact congrArg s.regs.setWb (withLow_withHigh _ hi lo)
    · exact congrArg s.regs.setLen (withHigh_withLow _ hi lo)
    · exact congrArg s.regs.setLen (withLow_withHigh _ hi lo)

end Sys2Proof.Machine

/-!
# The bytes that are no command (30_encoding R49, 60_exceptions R144)

IllegalCommand has two sources: a byte that does not decode, and a round index of 6 or 7. The decoder's half says which
bytes these are; the other half says that no other command raises it, so that STATUS = 4 tells these bytes apart.
-/

namespace Sys2Proof.Machine

/-! ## Which bytes -/

theorem listedIllegal_eq_not_isOk : ∀ c : Byte, listedIllegal c = !(decode c).isOk := by decide

/-- The listed bytes are those that decode to nothing (30_encoding R49). -/
theorem listedIllegal_iff (c : Byte) : listedIllegal c = true ↔ ∀ i : Instr, decode c ≠ .ok i := by
  rw [listedIllegal_eq_not_isOk]
  cases decode c <;> simp [Except.isOk, Except.toBool]

theorem exists_decode_of_not_listed {c : Byte} (h : ¬ listedIllegal c = true) : ∃ i, decode c = .ok i := by
  simpa [listedIllegal_iff] using h

/-- The bytes that decode to a command whose round index is 6 or 7 (30_encoding R47, R48). -/
theorem wellFormed_eq_false_iff {c : Byte} {i : Instr} (h : decode c = .ok i) :
    i.wellFormed = false ↔ c = 0x56 ∨ c = 0x57 ∨ c = 0x66 ∨ c = 0x67 := by
  have table : ∀ c : Byte, (decode c).toOption.any (!·.wellFormed) =
      decide (c = 0x56 ∨ c = 0x57 ∨ c = 0x66 ∨ c = 0x67) := by decide
  simpa [h, Except.toOption] using congrArg (· = true) (table c)

/-! ## Which commands raise IllegalCommand -/

/-- LongDivision's faults are codes 1 and 2 (40_field R66). -/
theorem longDivision_ne_illegalCommand (n d : Wide) : longDivision n d ≠ .error .illegalCommand := by
  unfold longDivision divResult
  split_ifs <;> simp

theorem euclidLoop_ne_illegalCommand (fuel : Nat) :
    ∀ e : EuclidPair, euclidLoop fuel e ≠ .error .illegalCommand := by
  induction fuel with
  | zero => exact fun _ => nofun
  | succ fuel ih =>
    intro e
    unfold euclidLoop
    split
    · exact nofun
    · split
      next qr _ => exact ih _
      next f hf =>
        rintro ⟨⟩
        exact longDivision_ne_illegalCommand _ _ hf

/-- ModInv's own fault is code 3, and its divisions raise none of code 4 (40_field R67). -/
theorem modInv_ne_illegalCommand (a : Byte) : modInv a ≠ .error .illegalCommand := by
  unfold modInv
  split
  · exact nofun
  · split
    next e _ =>
      unfold euclidResult
      split <;> simp
    next f hf =>
      rintro ⟨⟩
      exact euclidLoop_ne_illegalCommand _ _ hf

theorem legalRound_eq_false_iff (k : BitVec 3) : legalRound k = false ↔ 6 ≤ k.toNat := by
  simp [legalRound]

/-- A command raises IllegalCommand exactly when its round index is 6 or 7 (30_encoding R47, 60_exceptions R144). -/
theorem commandEffect_eq_illegalCommand_iff (i : Instr) (r : Regs) :
    commandEffect i r = .error .illegalCommand ↔ i.wellFormed = false := by
  constructor
  · intro h
    obtain ⟨-, h⟩ | ⟨-, h⟩ | ⟨-, ⟨k, rfl, hk⟩ | ⟨k, rfl, hk⟩⟩ := commandEffect_error h
    · exact absurd h (modInv_ne_illegalCommand _)
    · exact absurd h (longDivision_ne_illegalCommand _ _)
    · exact (legalRound_eq_false_iff k).mpr hk
    · exact (legalRound_eq_false_iff k).mpr hk
  · intro h
    cases i with
    | raddrc k => rw [commandEffect, raddrcEffect, withRoundIndex_of_ge ((legalRound_eq_false_iff k).mp h)]
    | round k => rw [commandEffect, roundEffect, withRoundIndex_of_ge ((legalRound_eq_false_iff k).mp h)]
    | _ => cases h

/-! ## What STATUS holds after the write -/

theorem faultCode_eq_four_iff (f : FaultCause) : faultCode f = 4 ↔ f = .illegalCommand := by
  cases f <;> decide

/-- STATUS = 4 is a recorded fault (60_exceptions R148). -/
theorem status_ne_four_of_live {r : Regs} (h : faulted r = false) : r.status ≠ 4 := by
  intro h4
  have hf : faulted r = true := by
    rw [faulted_congr (r' := r.setStatus (faultCode .illegalCommand)) h4, faulted_setStatus_faultCode]
  exact absurd (h.symm.trans hf) Bool.false_ne_true

/-- A command with round index 6 or 7 takes the fault IllegalCommand, precisely (60_exceptions R144, R147). -/
theorem exec_of_illFormed {i : Instr} (hi : i.wellFormed = false) {s : State} (h : faulted s.regs = false) :
    exec i s = .next (s.setRegs (s.regs.setStatus 4)) := by
  rw [exec_of_live i h, (commandEffect_eq_illegalCommand_iff i s.regs).mpr hi]
  rfl

/-- Every other command leaves STATUS as it was, resets it, or takes a fault of another code. -/
theorem exec_status_ne_four {i : Instr} (hi : i.wellFormed = true) {s t : State} (h : faulted s.regs = false)
    (ht : exec i s = .next t) : t.regs.status ≠ 4 := by
  rw [exec_of_live i h] at ht
  cases ht
  rw [State.setRegs_regs]
  cases he : commandEffect i s.regs with
  | ok r =>
    change r.status ≠ 4
    by_cases hs : i = .srst
    · subst hs
      cases he
      decide
    · rw [commandEffect_status hs he]
      exact status_ne_four_of_live h
  | error f =>
    change faultCode f ≠ 4
    rw [Ne, faultCode_eq_four_iff]
    rintro rfl
    rw [(commandEffect_eq_illegalCommand_iff i s.regs).mp he] at hi
    cases hi

/-- A step whose transaction writes CMD takes it from the list and executes the byte (20_memory R33). -/
theorem step_write_cmd {s : State} {c : Byte} {rest : List HostEvent} (h : s.script = .write 0x00 c :: rest) :
    step s = writeCommand c (s.withScript rest) := by
  rw [step_cons h, carryOut_write, busWrite_cmd]

/-- Settles O7: the listed bytes do not decode, the four of format CR decode to a command with an illegal round index,
and both take the same fault; every other byte decodes to a well-formed command, which does not raise it. -/
theorem illegalBytesAreTheListedOnesAndFault : Obligations.IllegalBytesAreTheListedOnesAndFault := by
  refine ⟨?count, ?illegal, ?legal⟩
  case count => decide +kernel
  case illegal =>
    intro s c rest hf hs hc
    have hlive : faulted (s.withScript rest).regs = false := hf
    rw [step_write_cmd hs]
    by_cases hl : listedIllegal c = true
    · exact writeCommand_of_ne_ok hlive ((listedIllegal_iff c).mp hl)
    · obtain ⟨i, hd⟩ := exists_decode_of_not_listed hl
      rw [writeCommand_of_ok hd]
      exact exec_of_illFormed ((wellFormed_eq_false_iff hd).mpr (hc.resolve_left hl)) hlive
  case legal =>
    intro s t c rest hf hs hc ht
    have hlive : faulted (s.withScript rest).regs = false := hf
    obtain ⟨hl, hr⟩ := not_or.mp hc
    obtain ⟨i, hd⟩ := exists_decode_of_not_listed hl
    have hi : i.wellFormed = true := Bool.of_not_eq_false (mt (wellFormed_eq_false_iff hd).mp hr)
    rw [step_write_cmd hs, writeCommand_of_ok hd] at ht
    exact ⟨⟨i, hd⟩, exec_status_ne_four hi hlive ht⟩

end Sys2Proof.Machine

/-!
# The carry-less product and the degree (40_field R61, R65, R70, R73)

`Bool` is a ring whose sum is the exclusive-or and whose product is the conjunction. So a bit of ClMul is a finite sum
over the pairs of bit indexes with a given sum, and Mathlib's lemmas on such sums give the laws of R61. What the top bit
of a value is says what its degree is; GFDEG is settled by the same fact.
-/

namespace Sys2Proof.Machine

open Finset.HasAntidiagonal (antidiagonal mem_antidiagonal)

/-! ## The top bit of a value is at its degree -/

/-- A value whose highest set bit has index d is nonzero and has degree d (40_field R65). -/
theorem log2_eq_of_top_bit {n d : Nat} (hd : n.testBit d = true) (above : ∀ j, d < j → n.testBit j = false) :
    n ≠ 0 ∧ n.log2 = d := by
  have hge : 2 ^ d ≤ n := Nat.ge_two_pow_of_testBit hd
  have hlt : n < 2 ^ (d + 1) := Nat.lt_pow_two_of_testBit n above
  have hne : n ≠ 0 := (lt_of_lt_of_le (Nat.two_pow_pos d) hge).ne'
  exact ⟨hne, (Nat.log2_eq_iff hne).mpr ⟨hge, hlt⟩⟩

theorem degree_eq_some_of_top_bit {w d : Nat} {v : BitVec w} (hd : v.getLsbD d = true)
    (above : ∀ j, d < j → v.getLsbD j = false) : degree v = some d := by
  obtain ⟨hne, hlog⟩ := log2_eq_of_top_bit (n := v.toNat) hd above
  rw [degree, if_neg hne, hlog]

theorem testBit_eq_false_of_lt_of_le {x n j : Nat} (hx : x < 2 ^ n) (hj : n ≤ j) : x.testBit j = false :=
  Nat.testBit_lt_two_pow (hx.trans_le (Nat.pow_le_pow_right (by decide) hj))

theorem testBit_eq_false_of_log2_lt {x j : Nat} (h : x.log2 < j) : x.testBit j = false :=
  testBit_eq_false_of_lt_of_le Nat.lt_log2_self h

/-! ## The bits of a carry-less product -/

/-- What the copy of u shifted by j, added when bit j of v is set, gives to bit k of the product (40_field R61). -/
def partialBit (u v k j : Nat) : Bool := if j ≤ k then u.testBit (k - j) * v.testBit j else 0

theorem partialBit_of_le {u v k j : Nat} (h : j ≤ k) : partialBit u v k j = u.testBit (k - j) * v.testBit j :=
  if_pos h

theorem partialBit_of_gt {u v k j : Nat} (h : k < j) : partialBit u v k j = 0 := if_neg (by omega)

theorem partialBit_of_log2_lt {u v k j : Nat} (h : v.log2 < j) : partialBit u v k j = 0 := by
  rw [partialBit, testBit_eq_false_of_log2_lt h, ← Bool.zero_eq_false, mul_zero, ite_self]

theorem testBit_ite_shiftLeft (u v k j : Nat) :
    (if v.testBit j then u <<< j else 0).testBit k = partialBit u v k j := by
  rw [partialBit, Bool.mul_eq_and, Bool.zero_eq_false]
  cases v.testBit j <;> by_cases h : j ≤ k <;> simp [Nat.testBit_shiftLeft, h]

theorem testBit_clMulBelow (u v n k : Nat) :
    (clMulBelow u v n).testBit k = ∑ j ∈ Finset.range n, partialBit u v k j := by
  induction n with
  | zero => exact Nat.zero_testBit k
  | succ n ih =>
    rw [clMulBelow, Nat.testBit_xor, ih, testBit_ite_shiftLeft, Finset.sum_range_succ, Bool.add_eq_xor]

/-- Bit k of ClMul is the sum of the products of matching bits: the partial products above bit k, or above the degree
of v, add nothing (40_field R61). -/
theorem testBit_clMul (u v k : Nat) :
    (clMul u v).testBit k = ∑ p ∈ antidiagonal k, u.testBit p.1 * v.testBit p.2 :=
  calc (clMul u v).testBit k
      = ∑ j ∈ Finset.range (v.log2 + 1), partialBit u v k j := testBit_clMulBelow u v _ k
    _ = ∑ j ∈ Finset.range (v.log2 + 1 + (k + 1)), partialBit u v k j :=
        (Finset.eventually_constant_sum (fun _ => partialBit_of_log2_lt) (Nat.le_add_right _ _)).symm
    _ = ∑ j ∈ Finset.range (k + 1), partialBit u v k j :=
        Finset.eventually_constant_sum (fun _ => partialBit_of_gt) (Nat.le_add_left _ _)
    _ = ∑ j ∈ Finset.range (k + 1), u.testBit (k - j) * v.testBit j :=
        Finset.sum_congr rfl fun _ hj => partialBit_of_le (Finset.mem_range_succ_iff.mp hj)
    _ = ∑ p ∈ antidiagonal k, u.testBit p.2 * v.testBit p.1 :=
        (Finset.Nat.sum_antidiagonal_eq_sum_range_succ (fun i j => u.testBit j * v.testBit i) k).symm
    _ = ∑ p ∈ antidiagonal k, u.testBit p.1 * v.testBit p.2 :=
        Finset.Nat.sum_antidiagonal_swap.symm

/-- Exclusive-or over a range of indexes, one after the other, is the ring's sum. -/
theorem foldl_xor_range_eq_sum (f : Nat → Bool) (n : Nat) :
    (List.range n).foldl (fun acc i => acc ^^ f i) false = ∑ i ∈ Finset.range n, f i := by
  induction n with
  | zero => rfl
  | succ n ih =>
    rw [List.range_succ, List.foldl_concat, ih, Finset.sum_range_succ, Bool.add_eq_xor]

theorem testBit_clMul_eq_foldl (u v k : Nat) : (clMul u v).testBit k =
    (List.range (k + 1)).foldl (fun acc i => acc ^^ (u.testBit i && v.testBit (k - i))) false := by
  rw [foldl_xor_range_eq_sum, testBit_clMul]
  exact Finset.Nat.sum_antidiagonal_eq_sum_range_succ (fun i j => u.testBit i * v.testBit j) k

/-! ## The laws of R61 -/

theorem clMul_comm (u v : Nat) : clMul u v = clMul v u := by
  refine Nat.eq_of_testBit_eq fun k => ?_
  rw [testBit_clMul, testBit_clMul, ← Finset.Nat.sum_antidiagonal_swap]
  exact Finset.sum_congr rfl fun _ _ => mul_comm _ _

@[simp] theorem clMul_zero_right (u : Nat) : clMul u 0 = 0 := by
  simp [clMul, clMulBelow]

@[simp] theorem clMul_one_right (u : Nat) : clMul u 1 = u := by
  have hlog : Nat.log2 1 = 0 := by decide
  simp [clMul, hlog, clMulBelow]

/-- Above the sum of the bounds on the two degrees no two set bits meet. -/
theorem clMul_lt_two_pow {u v m n : Nat} (hu : u < 2 ^ (m + 1)) (hv : v < 2 ^ (n + 1)) :
    clMul u v < 2 ^ (m + n + 1) := by
  refine Nat.lt_pow_two_of_testBit _ fun k hk => ?_
  rw [testBit_clMul]
  refine Finset.sum_eq_zero fun p hp => ?_
  have hsum : p.1 + p.2 = k := mem_antidiagonal.mp hp
  rcases Nat.lt_or_ge m p.1 with h | h
  · rw [testBit_eq_false_of_lt_of_le hu h]
    exact zero_mul _
  · rw [testBit_eq_false_of_lt_of_le hv (by omega : n + 1 ≤ p.2)]
    exact mul_zero _

/-- At the sum of the two degrees the two top bits meet, and no other two set bits do. -/
theorem testBit_clMul_top {u v : Nat} (hu : u ≠ 0) (hv : v ≠ 0) :
    (clMul u v).testBit (u.log2 + v.log2) = true := by
  have top_alone : ∀ p ∈ antidiagonal (u.log2 + v.log2), p ≠ (u.log2, v.log2) →
      u.testBit p.1 * v.testBit p.2 = 0 := by
    rintro ⟨i, j⟩ hp hne
    have hsum : i + j = u.log2 + v.log2 := mem_antidiagonal.mp hp
    rcases Nat.lt_trichotomy i u.log2 with h | rfl | h
    · rw [testBit_eq_false_of_log2_lt (x := v) (by omega)]
      exact mul_zero _
    · exact absurd (congrArg (Prod.mk _) (Nat.add_left_cancel hsum)) hne
    · rw [testBit_eq_false_of_log2_lt h]
      exact zero_mul _
  rw [testBit_clMul, Finset.sum_eq_single_of_mem (u.log2, v.log2) (mem_antidiagonal.mpr rfl) top_alone,
    Nat.testBit_log2 hu, Nat.testBit_log2 hv, Bool.mul_eq_and, Bool.and_self]

/-- Degrees add for nonzero operands, so a product of two of them is nonzero (40_field R61). -/
theorem clMul_ne_zero_and_log2 {u v : Nat} (hu : u ≠ 0) (hv : v ≠ 0) :
    clMul u v ≠ 0 ∧ (clMul u v).log2 = u.log2 + v.log2 :=
  log2_eq_of_top_bit (testBit_clMul_top hu hv) fun _ =>
    testBit_eq_false_of_lt_of_le (clMul_lt_two_pow Nat.lt_log2_self Nat.lt_log2_self)

/-- Settles O26: the bits are the sums of `testBit_clMul`, and each law is read off them. -/
theorem clMulIsTheBitConvolution : Obligations.ClMulIsTheBitConvolution :=
  ⟨testBit_clMul_eq_foldl, clMul_comm, fun u => ⟨clMul_zero_right u, clMul_one_right u⟩,
    fun _ _ => clMul_ne_zero_and_log2, fun a b => clMul_lt_two_pow (m := 7) (n := 7) a.isLt b.isLt⟩

/-! ## GFADD and GFDEG -/

/-- Settles O24: GFADD raises no fault, and Add is the exclusive-or (40_field R60, R70). -/
theorem gfaddWritesTheXor : Obligations.GfaddWritesTheXor :=
  fun _ h => exec_of_live .gfadd h

/-- GFDEG raises no fault: DG takes the encoded degree of WA (40_field R73). -/
theorem exec_gfdeg_of_live {s : State} (h : faulted s.regs = false) :
    exec .gfdeg s = .next (s.setRegs (s.regs.setDg (degreeByte (degree s.regs.wa)))) :=
  exec_of_live .gfdeg h

/-- Settles O31: the degree of WA is none for zero, and else the index of the highest set bit. -/
theorem gfdegWritesTheDegree : Obligations.GfdegWritesTheDegree := by
  refine ⟨fun s h hzero => ?zero, fun s d h hd above => ?nonzero⟩
  case zero =>
    rw [exec_gfdeg_of_live h, hzero, degree_zero]
    rfl
  case nonzero =>
    rw [exec_gfdeg_of_live h, degree_eq_some_of_top_bit hd above]
    rfl

end Sys2Proof.Machine

/-!
# The substitution box (41_sbox R84, R85)

That each entry of the table is the affine image of what ModInv answers is a fact about 256 bytes, and is evaluated.
SBOX's statement speaks of any y with FA times y equal to 1; that this y is the one ModInv answers needs MulMod to be
associative. MulMod adds up over each operand, so associativity is a fact about the monomials x^i alone.
-/

namespace Sys2Proof.Machine

/-! ## MulMod adds up over each operand (40_field R63) -/

/-- One identity of R62, applied to the byte z when its bit of the unreduced product p is set (40_field R63). -/
def applyIdentity (p : Wide) (z : Byte) (e : Nat × Byte) : Byte := if p.getLsbD e.1 then z ^^^ e.2 else z

theorem reduceWide_eq_foldl (p : Wide) : reduceWide p = reductionTable.foldl (applyIdentity p) (p.setWidth 8) := rfl

theorem applyIdentity_xor (p p' : Wide) (z z' : Byte) (e : Nat × Byte) :
    applyIdentity (p ^^^ p') (z ^^^ z') e = applyIdentity p z e ^^^ applyIdentity p' z' e := by
  simp only [applyIdentity, BitVec.getLsbD_xor]
  cases p.getLsbD e.1 <;> cases p'.getLsbD e.1
  · rfl
  · exact BitVec.xor_assoc z z' e.2
  · show z ^^^ z' ^^^ e.2 = z ^^^ e.2 ^^^ z'
    ac_rfl
  · show z ^^^ z' = z ^^^ e.2 ^^^ (z' ^^^ e.2)
    rw [BitVec.xor_comm z' e.2, BitVec.xor_assoc, ← BitVec.xor_assoc e.2, BitVec.xor_self, BitVec.zero_xor]

theorem reduceWide_xor (p p' : Wide) : reduceWide (p ^^^ p') = reduceWide p ^^^ reduceWide p' := by
  simp only [reduceWide_eq_foldl, BitVec.setWidth_xor]
  exact reductionTable.foldl_hom₂ (· ^^^ ·) _ _ _ _ _ fun z z' e => (applyIdentity_xor p p' z z' e).symm

theorem mulMod_comm (a b : Byte) : mulMod a b = mulMod b a := by
  rw [mulMod, mulMod, rawProduct, rawProduct, clMul_comm]

theorem mulMod_xor_left (a a' b : Byte) : mulMod (a ^^^ a') b = mulMod a b ^^^ mulMod a' b := by
  rw [mulMod, rawProduct, BitVec.toNat_xor, clMul_xor_left, BitVec.ofNat_xor, reduceWide_xor]
  rfl

theorem mulMod_xor_right (a b b' : Byte) : mulMod a (b ^^^ b') = mulMod a b ^^^ mulMod a b' := by
  rw [mulMod_comm, mulMod_xor_left, mulMod_comm b, mulMod_comm b']

@[simp] theorem mulMod_zero_left (a : Byte) : mulMod 0 a = 0 := by
  have h := mulMod_xor_left 0 0 a
  rwa [BitVec.xor_self, BitVec.xor_self] at h

@[simp] theorem mulMod_zero_right (a : Byte) : mulMod a 0 = 0 := by
  rw [mulMod_comm, mulMod_zero_left]

/-! ## The field's product is associative (40_field R64) -/

/-- A property of the zero byte and of the monomials x^i that sums keep holds of every byte: a byte is the sum of its
bits' monomials. -/
theorem byte_xor_induction {P : Byte → Prop} (zero : P 0) (monomial : ∀ i : Fin 8, P (BitVec.twoPow 8 i))
    (add : ∀ a b, P a → P b → P (a ^^^ b)) (a : Byte) : P a := by
  have bit : ∀ i : Fin 8, P (a &&& BitVec.twoPow 8 i) := by
    intro i
    rw [BitVec.and_twoPow]
    split
    · exact monomial i
    · exact zero
  have sum_of_bits : ∀ a : Byte, (List.finRange 8).foldl (fun acc i => acc ^^^ (a &&& BitVec.twoPow 8 i)) 0 = a := by
    decide
  have partial_sum : ∀ (is : List (Fin 8)) (acc : Byte), P acc →
      P (is.foldl (fun acc i => acc ^^^ (a &&& BitVec.twoPow 8 i)) acc) := by
    intro is
    induction is with
    | nil => exact fun _ h => h
    | cons i is ih => exact fun acc h => ih _ (add _ _ h (bit i))
  exact sum_of_bits a ▸ partial_sum (List.finRange 8) 0 zero

theorem mulMod_assoc_monomials : ∀ i j k : Fin 8,
    mulMod (BitVec.twoPow 8 i) (mulMod (BitVec.twoPow 8 j) (BitVec.twoPow 8 k)) =
      mulMod (mulMod (BitVec.twoPow 8 i) (BitVec.twoPow 8 j)) (BitVec.twoPow 8 k) := by decide +kernel

/-- Both sides add up over each of the three operands. -/
theorem mulMod_assoc (a b c : Byte) : mulMod a (mulMod b c) = mulMod (mulMod a b) c := by
  induction a using byte_xor_induction with
  | zero => simp only [mulMod_zero_left]
  | add a a' ha ha' => simp only [mulMod_xor_left, ha, ha']
  | monomial i =>
    induction b using byte_xor_induction with
    | zero => simp only [mulMod_zero_left, mulMod_zero_right]
    | add b b' hb hb' => simp only [mulMod_xor_left, mulMod_xor_right, hb, hb']
    | monomial j =>
      induction c using byte_xor_induction with
      | zero => simp only [mulMod_zero_right]
      | add c c' hc hc' => simp only [mulMod_xor_right, hc, hc']
      | monomial k => exact mulMod_assoc_monomials i j k

@[simp] theorem mulMod_one_right : ∀ a : Byte, mulMod a 1 = a := by decide +kernel

/-- An inverse is unique (40_field R64). -/
theorem inverse_unique {a y z : Byte} (hy : mulMod a y = 1) (hz : mulMod a z = 1) : y = z :=
  calc y = mulMod y (mulMod a z) := by rw [hz, mulMod_one_right]
    _ = mulMod (mulMod a y) z := by rw [mulMod_assoc, mulMod_comm y a]
    _ = z := by rw [hy, mulMod_comm, mulMod_one_right]

/-! ## What ModInv answers, and the table (40_field R67, 41_sbox R85) -/

theorem exists_of_map_eq_ok {α β : Type} {x : Except FaultCause α} {f : α → β} {b : β} (h : x.map f = .ok b) :
    ∃ y, x = .ok y ∧ f y = b := by
  cases x with
  | ok y => exact ⟨y, rfl, Except.ok.inj h⟩
  | error _ => cases h

theorem modInv_map_mulMod : ∀ a : Byte, a ≠ 0 → (modInv a).map (mulMod a) = .ok 1 := by decide +kernel

/-- A byte that inverts a is the one ModInv answers. -/
theorem modInv_eq_ok_of_mulMod_eq_one {a y : Byte} (h : mulMod a y = 1) : modInv a = .ok y := by
  have ha : a ≠ 0 := by
    rintro rfl
    rw [mulMod_zero_left] at h
    exact absurd h (by decide)
  obtain ⟨z, hz, hprod⟩ := exists_of_map_eq_ok (modInv_map_mulMod a ha)
  rw [hz, inverse_unique hprod h]

/-- The 256 entries of R83 against R85's expression for them. -/
theorem modInv_map_affine : ∀ a : Byte,
    (modInv a).map (fun y => fieldAdd (mulMod 0xB6 y) 0x34) = .ok (subByte a) := by decide +kernel

/-- Settles O35: evaluated for the 256 bytes, ModInv raises no fault and the image of its answer is the entry. -/
theorem sboxTableIsAffineOverInverse : Obligations.SboxTableIsAffineOverInverse := by
  intro a
  obtain ⟨y, hy, himage⟩ := exists_of_map_eq_ok (modInv_map_affine a)
  exact ⟨y, hy, himage.symm⟩

/-- The entry for a byte is the affine image of its inverse, whichever way that inverse is found. -/
theorem subByte_of_mulMod_eq_one {a y : Byte} (h : mulMod a y = 1) : subByte a = mulMod 0xB6 y ^^^ 0x34 := by
  obtain ⟨z, hz, hentry⟩ := sboxTableIsAffineOverInverse a
  have hzy : z = y := Except.ok.inj (hz.symm.trans (modInv_eq_ok_of_mulMod_eq_one h))
  rw [hentry, hzy, fieldAdd]

/-! ## The command (41_sbox R84) -/

/-- SBOX raises no fault: FR takes the table's entry for FA (41_sbox R84). -/
theorem exec_sbox_of_live {s : State} (h : faulted s.regs = false) :
    exec .sbox s = .next (s.setRegs (s.regs.setFr (subByte s.regs.fa))) :=
  exec_of_live .sbox h

/-- Settles O34: the entry for 0 is read off the table; a byte whose product with FA is 1 is the one ModInv answers, so
the entry for FA is its affine image. -/
theorem sboxWritesTheSubstitutedByte : Obligations.SboxWritesTheSubstitutedByte := by
  refine ⟨fun _ h => exec_sbox_of_live h, fun s h hzero => ?zero, fun s y h hy => ?nonzero⟩
  case zero =>
    rw [exec_sbox_of_live h, hzero]
    rfl
  case nonzero =>
    rw [exec_sbox_of_live h, subByte_of_mulMod_eq_one hy]
    rfl

end Sys2Proof.Machine

/-!
# The matrix commands (42_matrix R90 to R92)

MZERO, MADD and MMUL raise no fault and write MR alone. R91 and R92 say what MR holds byte by byte; a block with those
bytes is MatAdd or MatMul of the operands, since its cells are.
-/

namespace Sys2Proof.Machine

/-! ## A block with the bytes of R91 or R92 -/

/-- Byte k of the sum is the sum of the bytes k (42_matrix R88). -/
theorem eq_matAdd_of_getElem {a b m : Block} (h : ∀ k : Fin 16, m[k] = a[k] ^^^ b[k]) : m = matAdd a b := by
  refine block_ext_cells fun i j => ?_
  rw [cell_matAdd]
  exact h ⟨4 * i.val + j.val, by omega⟩

/-- Row i of the left block meets column j of the right, the bytes at their row-major indexes (42_matrix R86, R89). -/
theorem dot_row_column (a b : Block) (i j : Fin 4) :
    dot (fun k => cell a i k) (fun k => cell b k j) =
      mulMod a[4 * i.val] b[j.val] ^^^ mulMod a[4 * i.val + 1] b[4 + j.val] ^^^
      mulMod a[4 * i.val + 2] b[8 + j.val] ^^^ mulMod a[4 * i.val + 3] b[12 + j.val] := by
  have hrow0 : cell b 0 j = b[j.val] := by simp only [cell, Fin.val_zero, Nat.mul_zero, Nat.zero_add]
  rw [dot, hrow0]
  rfl

theorem eq_matMul_of_getElem {a b m : Block}
    (h : ∀ i j : Fin 4, m[4 * i.val + j.val] =
      mulMod a[4 * i.val] b[j.val] ^^^ mulMod a[4 * i.val + 1] b[4 + j.val] ^^^
      mulMod a[4 * i.val + 2] b[8 + j.val] ^^^ mulMod a[4 * i.val + 3] b[12 + j.val]) : m = matMul a b := by
  refine block_ext_cells fun i j => ?_
  rw [cell_matMul, dot_row_column]
  exact h i j

/-! ## The commands -/

/-- Settles O39: a block with the bytes of R92 is the product MatMul(MA, MB), which MMUL writes to MR. -/
theorem mmulMultipliesRowByColumn : Obligations.MmulMultipliesRowByColumn := by
  intro s m hlive hbytes
  rw [eq_matMul_of_getElem hbytes]
  exact exec_of_live .mmul hlive

/-- Settles O37: MatZero is the sixteen zero bytes, which MZERO writes to MR. -/
theorem mzeroClearsTheResult : Obligations.MzeroClearsTheResult :=
  fun _ hlive => exec_of_live .mzero hlive

/-- Settles O38: a block with the bytes of R91 is the sum MatAdd(MA, MB), which MADD writes to MR. -/
theorem maddAddsBytewise : Obligations.MaddAddsBytewise := by
  intro s m hlive hbytes
  rw [eq_matAdd_of_getElem hbytes]
  exact exec_of_live .madd hlive

end Sys2Proof.Machine

/-!
# The round function (43_round R98, R103 to R109)

The step commands write MR from MA, ROUND overwrites MA and MB, and ROUNDS writes the masked-message matrix of the sixth
round to MR. ROUND and ROUNDS rest on one fact about a single round, the pair of R102; the rounds of ROUNDS are an
induction on how many of them have run.
-/

namespace Sys2Proof.Machine

/-! ## One round, and rounds 0 to 5 in their order (43_round R102, R103) -/

/-- The pair (K', M') of R102: M' is mixed with the new K'. -/
theorem roundPair_eq {rc : RoundConstants} {k m k' m' : Block} {r : Fin 6}
    (hk : k' = addRoundConstant rc (matMul diffusionMatrix (shiftRows (substitute k))) r)
    (hm : m' = matAdd (matMul diffusionMatrix (shiftRows (substitute m))) k') :
    roundPair rc (k, m) r = (k', m') := by
  subst hm hk
  rfl

theorem take_succ_roundOrder (r : Fin 6) : roundOrder.take (r.val + 1) = roundOrder.take r.val ++ [r] := by
  revert r
  decide

section
variable {rc : RoundConstants} {k m : Nat → Block}
  (hround : ∀ r : Fin 6, roundPair rc (k r.val, m r.val) r = (k (r.val + 1), m (r.val + 1)))
include hround

/-- After the first n rounds the pair is (K_n, M_n) of sequences that follow the round step. -/
theorem foldl_roundPair_take {n : Nat} (hn : n ≤ 6) :
    (roundOrder.take n).foldl (roundPair rc) (k 0, m 0) = (k n, m n) := by
  induction n with
  | zero => rfl
  | succ n ih =>
    rw [take_succ_roundOrder ⟨n, hn⟩, List.foldl_append, ih (Nat.le_of_succ_le hn)]
    exact hround ⟨n, hn⟩

theorem roundFunction_eq_of_rounds : roundFunction rc (k 0) (m 0) = m 6 :=
  congrArg Prod.snd (foldl_roundPair_take hround le_rfl)

end

/-! ## A block with the bytes of R104, R105 or R107 -/

theorem eq_substitute_of_getElem {x m : Block} (h : ∀ k : Fin 16, m[k] = subByte x[k]) : m = substitute x := by
  refine block_ext_cells fun i j => ?_
  rw [cell_substitute]
  exact h ⟨4 * i.val + j.val, by omega⟩

/-- Row i is rotated left by i places, on the serialised register (43_round R98). -/
theorem shiftRows_eq (x : Block) : shiftRows x =
    #v[x[0], x[1], x[2], x[3], x[5], x[6], x[7], x[4], x[10], x[11], x[8], x[9], x[15], x[12], x[13], x[14]] := by
  refine block_ext_cells fun i j => ?_
  rw [cell_shiftRows]
  fin_cases i <;> fin_cases j <;> rfl

/-- Four rotations of row i move it by 4i places, which are none modulo 4 (43_round R98). -/
theorem shiftRows_four_times (x : Block) : shiftRows (shiftRows (shiftRows (shiftRows x))) = x := by
  have hindex : ∀ i j : Fin 4, j + i + i + i + i = j := by decide
  refine block_ext_cells fun i j => ?_
  simp only [cell_shiftRows, hindex]

theorem cell_addRoundConstant (rc : RoundConstants) (x : Block) (r : Fin 6) (i j : Fin 4) :
    cell (addRoundConstant rc x r) i j = if i = 0 then cell x i j ^^^ rc r j else cell x i j := by
  rw [addRoundConstant, cell_ofCells, fieldAdd]

/-- Row 0 is bytes 0 to 3, and the other rows are bytes 4 to 15 (42_matrix R86, 43_round R100). -/
theorem eq_addRoundConstant_of_getElem {rc : RoundConstants} {x m : Block} {r : Fin 6}
    (hrow : ∀ j : Fin 4, m[j.val] = x[j.val] ^^^ rc r j) (hrest : ∀ k : Fin 16, 4 ≤ k.val → m[k] = x[k]) :
    m = addRoundConstant rc x r := by
  refine block_ext_cells fun i j => ?_
  rw [cell_addRoundConstant]
  split
  next hi =>
    subst hi
    simpa only [cell, Fin.val_zero, Nat.mul_zero, Nat.zero_add] using hrow j
  next hi =>
    exact hrest ⟨4 * i.val + j.val, by omega⟩ (by dsimp only; omega)

/-! ## The commands with a legal round index -/

theorem exec_raddrc_of_lt {s : State} {r : BitVec 3} (hlive : faulted s.regs = false) (hr : r.toNat < 6) :
    exec (.raddrc r) s = .next (s.setRegs (s.regs.setMr (addRoundConstant Config.rc s.regs.ma ⟨r.toNat, hr⟩))) := by
  rw [exec_of_live _ hlive, commandEffect, raddrcEffect, withRoundIndex_of_lt hr, settle]

theorem exec_round_of_lt {s : State} {r : BitVec 3} {k m : Block} (hlive : faulted s.regs = false) (hr : r.toNat < 6)
    (hpair : roundPair Config.rc (s.regs.ma, s.regs.mb) ⟨r.toNat, hr⟩ = (k, m)) :
    exec (.round r) s = .next (s.setRegs ((s.regs.setMa k).setMb m)) := by
  rw [exec_of_live _ hlive, commandEffect, roundEffect, withRoundIndex_of_lt hr, settle, hpair]

/-! ## The obligations -/

/-- Settles O46: the fold over rounds 0 to 5 follows the sequences K and M, by induction on the rounds that have run. -/
theorem roundsRunsSixRounds : Obligations.RoundsRunsSixRounds := by
  intro s k m hlive hk0 hm0 hstep
  have hround : ∀ r : Fin 6, roundPair Config.rc (k r.val, m r.val) r = (k (r.val + 1), m (r.val + 1)) :=
    fun r => (hstep r).elim roundPair_eq
  rw [← roundFunction_eq_of_rounds hround, hk0, hm0]
  exact exec_of_live .rounds hlive

/-- Settles O41: a block with the bytes of R104 is Substitute(MA), which RSUB writes to MR. -/
theorem rsubSubstitutesEveryByte : Obligations.RsubSubstitutesEveryByte := by
  intro s m hlive hbytes
  rw [eq_substitute_of_getElem hbytes]
  exact exec_of_live .rsub hlive

/-- Settles O42: RSHIFT writes Shift(MA), whose serialised order and fourfold iterate are facts about Shift alone. -/
theorem rshiftRotatesTheRows : Obligations.RshiftRotatesTheRows := by
  refine ⟨fun s hlive => ?_, shiftRows_four_times⟩
  rw [← shiftRows_eq]
  exact exec_of_live .rshift hlive

/-- Settles O44: with a legal index a block with the bytes of R107 is what RADDRC writes to MR, and with 6 or 7 the
command is ill formed. -/
theorem raddrcAddsTheConstantRow : Obligations.RaddrcAddsTheConstantRow := by
  refine ⟨fun s r m hr hlive hrow hrest => ?legal, fun s r hlive hr => ?illegal⟩
  case legal =>
    rw [eq_addRoundConstant_of_getElem hrow hrest]
    exact exec_raddrc_of_lt hlive hr
  case illegal =>
    exact exec_of_illFormed (i := .raddrc r) ((legalRound_eq_false_iff r).mpr hr) hlive

/-- Settles O45: with a legal index ROUND writes the pair of R102 to MA and MB, and with 6 or 7 it is ill formed. -/
theorem roundUpdatesBothMatricesInPlace : Obligations.RoundUpdatesBothMatricesInPlace := by
  refine ⟨fun s r k m hr hlive hk hm => ?legal, fun s r hlive hr => ?illegal⟩
  case legal =>
    exact exec_round_of_lt hlive hr (roundPair_eq hk hm)
  case illegal =>
    exact exec_of_illFormed (i := .round r) ((legalRound_eq_false_iff r).mpr hr) hlive

end Sys2Proof.Machine

/-!
# Compression, padding and the hash commands (44_compress_hash R115 to R123)

CMPR, HINIT, HUPD and HFIN raise no fault, and each is a fold of Compress over blocks that the spec gives byte by byte:
a block with those bytes is the one the model builds. Pad is the message, a run of zeros and the two length bytes; the
statement about its shape is read off that one equation.
-/

namespace Sys2Proof.Machine

/-! ## Compression (44_compress_hash R115, R116) -/

/-- The matrix that holds the block's bytes column by column is BlockToMatrix of it (44_compress_hash R115). -/
theorem eq_blockToMatrix_of_getElem {a w : Block}
    (h : ∀ row col : Fin 4, a[4 * row.val + col.val] = w[row.val + 4 * col.val]) : a = blockToMatrix w := by
  refine block_ext_cells fun row col => ?_
  rw [cell_blockToMatrix]
  exact h row col

/-- Feed-in, round function and feed-forward, each given byte by byte (44_compress_hash R116). -/
theorem eq_compress_of_getElem {rc : RoundConstants} {h w a m0 m6 h' : Block}
    (ha : ∀ row col : Fin 4, a[4 * row.val + col.val] = w[row.val + 4 * col.val])
    (hm0 : ∀ k : Fin 16, m0[k] = a[k] ^^^ h[k]) (hm6 : m6 = roundFunction rc h m0)
    (hh' : ∀ k : Fin 16, h'[k] = m6[k] ^^^ a[k] ^^^ h[k]) : h' = compress rc h w := by
  rw [compress, ← eq_blockToMatrix_of_getElem ha, ← eq_matAdd_of_getElem hm0, ← hm6]
  refine block_ext_cells fun i j => ?_
  rw [cell_matAdd, cell_matAdd]
  exact hh' ⟨4 * i.val + j.val, by omega⟩

/-- Settles O48: a block with the bytes of R116 is Compress(H, BUF), which CMPR writes to H. -/
theorem cmprFoldsTheBlockIntoH : Obligations.CmprFoldsTheBlockIntoH := by
  intro s a m0 m6 h' hlive ha hm0 hm6 hh'
  rw [eq_compress_of_getElem ha hm0 hm6 hh']
  exact exec_of_live .cmpr hlive

/-! ## HINIT and HUPD (44_compress_hash R121, R122) -/

/-- Settles O49: HINIT's effect clears H, BUF and LEN and raises no fault. -/
theorem hinitStartsAHash : Obligations.HinitStartsAHash :=
  fun _ hlive => exec_of_live .hinit hlive

/-- LEN counts modulo 65536 (44_compress_hash R122). -/
theorem len_add_one (len : Wide) : len + 1 = BitVec.ofNat 16 ((len.toNat + 1) % 65536) := by
  bv_omega

/-- Fill index 15 names the last byte of BUF (10_state R16). -/
theorem fillIndex_eq_fifteen_iff {len : Wide} : fillIndex len = 15 ↔ len.toNat % 16 = 15 :=
  Fin.ext_iff

/-- Settles O50: the block fills exactly when the byte stored is BUF[15], also where LEN wraps. -/
theorem hupdAbsorbsOneByte : Obligations.HupdAbsorbsOneByte := by
  refine ⟨fun s hlive hroom => ?room, fun s hlive hfull => ?full⟩
  case room =>
    rw [exec_of_live _ hlive, commandEffect, hupdEffect_of_room _ hroom, len_add_one]
    rfl
  case full =>
    have hindex : fillIndex s.regs.len = 15 := fillIndex_eq_fifteen_iff.mpr hfull
    rw [exec_of_live _ hlive, commandEffect, hupdEffect_of_full _ hfull]
    simp only [absorbByte, foldBuffer, clearBuffer, Regs.setLen, Regs.setBuf, Regs.setH, hindex, len_add_one]
    rfl

/-! ## HFIN (44_compress_hash R123) -/

theorem highByte_eq_ofNat (w : Wide) : highByte w = BitVec.ofNat 8 (w.toNat / 256) := by
  rw [highByte, BitVec.extractLsb', Nat.shiftRight_eq_div_pow]

theorem lowByte_eq_ofNat (w : Wide) : lowByte w = BitVec.ofNat 8 (w.toNat % 256) := by
  simp [lowByte, BitVec.extractLsb', ← BitVec.toNat_inj]

/-- The block that keeps the bytes below the fill index and is zero from it on. -/
theorem eq_zeroFrom_of_getElem {w b : Block} {f : Fin 16} (hkept : ∀ k : Fin 16, k.val < f.val → w[k] = b[k])
    (hzero : ∀ k : Fin 16, f.val ≤ k.val → w[k] = 0) : w = zeroFrom f b := by
  refine Vector.ext fun k hk => ?_
  rw [zeroFrom_getElem]
  split
  next hlt => exact hkept ⟨k, hk⟩ hlt
  next hge => exact hzero ⟨k, hk⟩ (Nat.le_of_not_lt hge)

/-- The block with LEN, big-endian, in place of its last two bytes. -/
theorem eq_withLength_of_getElem {w b : Block} {len : Wide} (hkept : ∀ k : Fin 16, k.val < 14 → w[k] = b[k])
    (hhigh : w[14] = BitVec.ofNat 8 (len.toNat / 256)) (hlow : w[15] = BitVec.ofNat 8 (len.toNat % 256)) :
    w = withLength len b := by
  refine Vector.ext fun k hk => ?_
  rw [withLength_getElem, highByte_eq_ofNat, lowByte_eq_ofNat]
  split_ifs with h15 h14
  · subst h15
    exact hlow
  · subst h14
    exact hhigh
  · exact hkept ⟨k, hk⟩ (by dsimp only; omega)

/-- The last fold of HFIN: BUF with LEN in its last two bytes, then BUF and LEN clear (44_compress_hash R123). -/
theorem finishLength_eq (rc : RoundConstants) (r : Regs) : finishLength rc r =
    { r with h := compress rc r.h (withLength r.len r.buf), buf := zeroBlock, len := 0 } := by
  simp only [finishLength, foldBuffer, clearBuffer, Regs.setBuf, Regs.setH, Regs.setLen]

/-- With room for the length HFIN folds one block: the filled tail with LEN in its last two bytes. -/
theorem hfinEffect_of_room (rc : RoundConstants) {r : Regs} (h : r.len.toNat % 16 ≠ 15) :
    hfinEffect rc r = .ok { r with
      h := compress rc r.h (withLength r.len (zeroFrom (fillIndex r.len) r.buf)), buf := zeroBlock, len := 0 } := by
  rw [hfinEffect, finishTail, if_neg (mt fillIndex_eq_fifteen_iff.mp h), finishLength_eq]
  simp only [fillTail, Regs.setBuf]

/-- With 15 bytes in BUF the filled tail is a block of its own, folded before the block of the length. -/
theorem hfinEffect_of_no_room (rc : RoundConstants) {r : Regs} (h : r.len.toNat % 16 = 15) :
    hfinEffect rc r = .ok { r with
      h := compress rc (compress rc r.h (zeroFrom (fillIndex r.len) r.buf)) (withLength r.len zeroBlock),
      buf := zeroBlock, len := 0 } := by
  rw [hfinEffect, finishTail, if_pos (fillIndex_eq_fifteen_iff.mpr h), finishLength_eq]
  simp only [fillTail, foldBuffer, clearBuffer, Regs.setBuf, Regs.setH]

/-- Settles O51: the blocks of R123 are the filled tail with LEN in it, or the filled tail and then zeros with LEN. -/
theorem hfinPadsAndFolds : Obligations.HfinPadsAndFolds := by
  refine ⟨fun s w hlive hroom hkept hzero hhigh hlow => ?room,
    fun s w v hlive hfull hkept hlast hzero hhigh hlow => ?full⟩
  case room =>
    have hw : w = withLength s.regs.len (zeroFrom (fillIndex s.regs.len) s.regs.buf) := by
      refine eq_withLength_of_getElem (fun k hk => ?_) hhigh hlow
      rw [Fin.getElem_fin (zeroFrom _ _), zeroFrom_getElem]
      split
      next hlt => exact hkept k hlt
      next hge => exact hzero k (Nat.le_of_not_lt hge) hk
    rw [exec_of_live _ hlive, commandEffect, hfinEffect_of_room _ (by omega), hw]
    rfl
  case full =>
    have hw : w = zeroFrom (fillIndex s.regs.len) s.regs.buf := by
      rw [fillIndex_eq_fifteen_iff.mpr hfull]
      refine eq_zeroFrom_of_getElem hkept fun k hk => ?_
      obtain rfl : k = 15 := Fin.last_le_iff.mp hk
      exact hlast
    have hv : v = withLength s.regs.len zeroBlock := by
      refine eq_withLength_of_getElem (fun k hk => ?_) hhigh hlow
      rw [hzero k hk, Fin.getElem_fin, zeroBlock, Vector.getElem_replicate]
    rw [exec_of_live _ hlive, commandEffect, hfinEffect_of_no_room _ hfull, hw, hv]
    rfl

/-! ## Padding (44_compress_hash R117, R118) -/

/-- The number of zero bytes between the message and the length bytes. -/
def paddingZeros (l : Nat) : Nat := paddedLength l - 2 - l

/-- The two length bytes always fit behind the message (44_compress_hash R117). -/
theorem paddedLength_eq (l : Nat) : paddedLength l = l + paddingZeros l + 2 := by
  simp only [paddingZeros, paddedLength, paddedBlocks]
  omega

theorem paddingZeros_le (l : Nat) : paddingZeros l ≤ 15 := by
  simp only [paddingZeros, paddedLength, paddedBlocks]
  omega

theorem zeroFill_eq (msg : List Byte) :
    zeroFill msg = msg ++ List.replicate (paddingZeros msg.length) 0 ++ [0, 0] := by
  have hzeros : paddedLength msg.length - msg.length = paddingZeros msg.length + 2 := by
    rw [paddedLength_eq]
    omega
  rw [zeroFill, hzeros, List.replicate_add, ← List.append_assoc]
  rfl

theorem set_set_append_pair {α : Type} (l : List α) (a b x y : α) :
    ((l ++ [a, b]).set l.length x).set (l.length + 1) y = l ++ [x, y] := by
  simp

/-- The message, the zeros, and the big-endian length of L modulo 65536 (44_compress_hash R117, R118). -/
theorem pad_eq (msg : List Byte) :
    pad msg = msg ++ List.replicate (paddingZeros msg.length) 0 ++ [lengthHigh msg.length, lengthLow msg.length] := by
  have htail : (msg ++ List.replicate (paddingZeros msg.length) (0 : Byte)).length =
      msg.length + paddingZeros msg.length := by
    rw [List.length_append, List.length_replicate]
  rw [pad, zeroFill_eq, paddedLength_eq, Nat.add_sub_cancel, Nat.add_sub_assoc (by decide), ← htail]
  exact set_set_append_pair _ _ _ _ _

theorem length_pad (msg : List Byte) : (pad msg).length = paddedLength msg.length := by
  simp [pad_eq, paddedLength_eq, Nat.add_assoc]

/-- Settles O52: each clause reads off one part of Pad's equation. -/
theorem paddingHasTheStatedShape : Obligations.PaddingHasTheStatedShape := by
  intro msg
  have hlength := paddedLength_eq msg.length
  have hzeros := paddingZeros_le msg.length
  rw [length_pad]
  refine ⟨rfl, by omega, by omega, ?message, fun k hge hlt => ?zeros, ?high, ?low⟩
  case message => rw [pad_eq, List.append_assoc, List.take_left]
  case zeros =>
    rw [pad_eq, List.append_assoc, List.getElem?_append_right hge, List.getElem?_append_left (by simp; omega),
      List.getElem?_replicate, if_pos (by omega)]
  case high =>
    rw [pad_eq, List.getElem?_append_right (by simp; omega)]
    simp [hlength, lengthHigh]
  case low =>
    rw [pad_eq, List.getElem?_append_right (by simp; omega)]
    simp [hlength, lengthLow]

end Sys2Proof.Machine

/-!
# The system commands and the reset input (45_system R135, R136, 70_reset_and_hazards R160)

SRST, as a command and as the byte 0xFF written to CMD, and the reset input are the one transition `State.resetAll`,
which no test of the faulted state guards. NOP is an effect that answers its own registers, so both sides of that test
answer the same state.
-/

namespace Sys2Proof.Machine

/-- A write of 0xFF to CMD is the reset transition on what the host still has to issue (45_system R136). -/
theorem step_write_srst {s : State} {rest : List HostEvent} (h : s.script = .write 0x00 0xFF :: rest) :
    step s = .next (s.withScript rest).resetAll := by
  rw [step_write_cmd h, writeCommand_of_ok ((decode_eq_srst_iff 0xFF).mpr rfl), exec_srst]

/-- The reset input is the same transition, by no command (70_reset_and_hazards R160). -/
theorem step_resetInput {s : State} {rest : List HostEvent} (h : s.script = .resetInput :: rest) :
    step s = .next (s.withScript rest).resetAll := by
  rw [step_cons h, carryOut_resetInput]

/-- Settles O2: each of the three ways to reset answers `State.resetAll`, which is the stated record update. -/
theorem srstAndResetInputRestoreReset : Obligations.SrstAndResetInputRestoreReset :=
  ⟨exec_srst, fun _ _ h => step_write_srst h, fun _ _ h => step_resetInput h⟩

/-- Settles O23: in the faulted state no command but SRST acts; outside it NOP's effect answers the registers it was
given. -/
theorem nopChangesNothing : Obligations.NopChangesNothing := by
  intro s
  cases hf : faulted s.regs with
  | true => exact exec_of_faulted (by decide) hf
  | false => exact exec_of_live .nop hf

end Sys2Proof.Machine

/-!
# Fault entry and the faulted state (60_exceptions R147, R148)

A command's effect either answers registers that are not faulted, or raises a fault, which writes STATUS on the
registers as they were. So a non-faulted state becomes faulted by fault entry alone, and a faulted one is left by reset alone.
-/

namespace Sys2Proof.Machine

/-! ## The faulted state -/

theorem faulted_iff (r : Regs) : faulted r = true ↔ r.status.extractLsb' 0 3 ≠ 0 := bne_iff_ne

/-- In the faulted state a write other than SRST's byte to CMD is taken from the host's list and changes nothing. -/
theorem step_write_of_faulted {s : State} (hf : faulted s.regs = true) {addr d : Byte} {rest : List HostEvent}
    (hs : s.script = .write addr d :: rest) (hsrst : ¬ (addr = 0x00 ∧ d = 0xFF)) :
    step s = .next (s.withScript rest) := by
  have hf' : faulted (s.withScript rest).regs = true := hf
  rw [step_cons hs, carryOut_write, busWrite_of_faulted hf', if_neg hsrst]

/-- A read is answered from the registers, faulted or not (20_memory R32). -/
theorem step_read {s : State} {addr : Byte} {rest : List HostEvent} (hs : s.script = .read addr :: rest) :
    step s = .next ((s.withScript rest).answer (busRead addr s)) := by
  rw [step_cons hs, carryOut_read]
  rfl

/-- Settles O15: one rule of the step for each kind of transaction; the two ways to reset act in every state. -/
theorem faultedStateIgnoresAllButReset : Obligations.FaultedStateIgnoresAllButReset :=
  ⟨faulted_iff, fun _ _ hf => ⟨fun _ _ hs hsrst => step_write_of_faulted hf hs hsrst, fun _ hs => step_read hs,
    fun hs => step_write_srst hs, fun hs => step_resetInput hs⟩⟩

/-! ## Fault entry -/

/-- An effect that completes leaves STATUS as it was, and SRST's clears it: neither makes the registers faulted. -/
theorem faulted_of_commandEffect_ok {i : Instr} {r r' : Regs} (hlive : faulted r = false)
    (h : commandEffect i r = .ok r') : faulted r' = false := by
  by_cases hi : i = .srst
  · subst hi
    cases h
    decide
  · rw [faulted_congr (commandEffect_status hi h), hlive]

/-- Outside the faulted state a byte written to CMD leaves the machine non-faulted or enters one fault, precisely
(60_exceptions R147). -/
theorem writeCommand_not_faulted_or_fault {s t : State} {c : Byte} (hlive : faulted s.regs = false)
    (ht : writeCommand c s = .next t) :
    faulted t.regs = false ∨ ∃ f, t = s.setRegs (s.regs.setStatus (faultCode f)) := by
  cases hd : decode c with
  | ok i =>
    rw [writeCommand_of_ok hd, exec_of_live i hlive] at ht
    cases ht
    cases he : commandEffect i s.regs with
    | ok r => exact .inl (faulted_of_commandEffect_ok hlive he)
    | error f => exact .inr ⟨f, rfl⟩
  | error e =>
    rw [writeCommand_of_error hd, command_of_live hlive] at ht
    cases ht
    exact .inr ⟨.illegalCommand, rfl⟩

/-- The four codes of R140. -/
theorem faultCode_eq_one_to_four (f : FaultCause) :
    faultCode f = 1 ∨ faultCode f = 2 ∨ faultCode f = 3 ∨ faultCode f = 4 := by
  cases f <;> decide

/-- Settles O16: a write to CMD that ends in a faulted state has entered a fault. -/
theorem faultEntryWritesStatusAlone : Obligations.FaultEntryWritesStatusAlone := by
  intro s t c hlive ht hfaulted
  rw [busWrite_cmd] at ht
  obtain hnot | ⟨f, rfl⟩ := writeCommand_not_faulted_or_fault hlive ht
  · exact absurd (hnot.symm.trans hfaulted) Bool.false_ne_true
  · exact ⟨f, rfl, faultCode_eq_one_to_four f⟩

end Sys2Proof.Machine

/-!
# The state after reset (70_reset_and_hazards R161)

The ten scalar registers are the fields of `resetRegs`, each of the five blocks is `zeroBlock`, and CMD stores nothing:
a read of it answers 0x00 whatever the registers hold.
-/

namespace Sys2Proof.Machine

theorem getElem_zeroBlock (k : Fin 16) : zeroBlock[k] = 0 := by
  rw [Fin.getElem_fin, zeroBlock, Vector.getElem_replicate]

/-- A read of CMD answers 0x00 in every state (20_memory R31, R32). -/
theorem busRead_cmd (s : State) : busRead 0x00 s = 0 := by
  rw [busRead, (locate_eq_cmd_iff 0x00).mpr rfl, readLocation]

/-- Settles O1: the scalar registers and the blocks are read off `resetRegs`, and CMD by `busRead_cmd`. -/
theorem resetLeavesEveryRegisterZero : Obligations.ResetLeavesEveryRegisterZero := by
  refine ⟨resetRegs_fa, resetRegs_fb, resetRegs_fr, resetRegs_dg, resetRegs_wa, resetRegs_wb, resetRegs_wq,
    resetRegs_len, resetRegs_rm, resetRegs_status, fun k => ?blocks, busRead_cmd⟩
  case blocks =>
    have hzero : zeroBlock[k] = 0 := getElem_zeroBlock k
    exact ⟨hzero, hzero, hzero, hzero, hzero⟩

end Sys2Proof.Machine

/-!
# The encoding (30_encoding R46 to R53)

Format C0 has 19 codes and format CR two rows of eight, so each direction of the round trip is a finite fact: per
command, and for format CR per round index, in one direction, per byte in the other.
-/

namespace Sys2Proof.Machine

/-! ## The round trip -/

/-- The two rows of format CR: the index field comes back whatever its value, 6 and 7 included (30_encoding R47). -/
theorem decode_encode_roundIndex : ∀ r : BitVec 3,
    decode (encode (.raddrc r)) = .ok (.raddrc r) ∧ decode (encode (.round r)) = .ok (.round r) := by decide

theorem decode_encode (i : Instr) : decode (encode i) = .ok i := by
  cases i with
  | raddrc r => exact (decode_encode_roundIndex r).1
  | round r => exact (decode_encode_roundIndex r).2
  | _ => rfl

/-- Settles O5: format CR index by index, format C0 row by row. -/
theorem decodeOfEncodeIsTheCommand : Obligations.DecodeOfEncodeIsTheCommand := decode_encode

/-- What a byte decodes to, encoded again. -/
theorem map_encode_decode : ∀ c : Byte, (decode c).toOption.all (encode · == c) = true := by decide

theorem encode_of_decode {c : Byte} {i : Instr} (h : decode c = .ok i) : encode i = c := by
  simpa [h, Except.toOption] using map_encode_decode c

/-- Settles O6: the 256 bytes, each encoded again. -/
theorem encodeOfDecodeIsTheByte : Obligations.EncodeOfDecodeIsTheByte := fun _ _ => encode_of_decode

/-- Settles O8: the listed bytes by `listedIllegal_iff`, and each row by the decoder run on its word. -/
theorem opcodeMapRowsDecode : Obligations.OpcodeMapRowsDecode := ⟨listedIllegal_iff, by decide⟩

end Sys2Proof.Machine

/-!
# The register-use table (10_state R23)

What a command writes and what it reads are facts about its effect alone: registers outside its row come out of the
effect as they were, and two register sets that agree on what it reads leave the effect with one outcome. The statements
about `exec` add the test of the faulted state and the taking of a fault.
-/

namespace Sys2Proof.Machine

/-! ## The column "writes" -/

/-- HUPD writes BUF, LEN and H, whether or not the block fills (44_compress_hash R122). -/
theorem hupdEffect_agree {rc : RoundConstants} {r r' : Regs} (h : hupdEffect rc r = .ok r') :
    ∀ n, n ∉ writeSet .hupd → agree r r' n = true := by
  by_cases hfull : r.len.toNat % 16 = 15
  · rw [hupdEffect_of_full rc hfull] at h
    cases h
    intro n
    cases n <;> simp [writeSet, agree, clearBuffer, foldBuffer, absorbByte]
  · rw [hupdEffect_of_room rc hfull] at h
    cases h
    intro n
    cases n <;> simp [writeSet, agree]

/-- HFIN writes H, BUF and LEN, with one fold or with two (44_compress_hash R123). -/
theorem hfinEffect_agree {rc : RoundConstants} {r r' : Regs} (h : hfinEffect rc r = .ok r') :
    ∀ n, n ∉ writeSet .hfin → agree r r' n = true := by
  by_cases hfull : r.len.toNat % 16 = 15
  · rw [hfinEffect_of_no_room rc hfull] at h
    cases h
    intro n
    cases n <;> simp [writeSet, agree]
  · rw [hfinEffect_of_room rc hfull] at h
    cases h
    intro n
    cases n <;> simp [writeSet, agree]

/-- An effect that completes leaves every register outside the command's column "writes" as it was. -/
theorem commandEffect_agree {i : Instr} {r r' : Regs} (h : commandEffect i r = .ok r') :
    ∀ n, n ∉ writeSet i → agree r r' n = true := by
  cases i with
  | hupd => exact hupdEffect_agree h
  | hfin => exact hfinEffect_agree h
  | gfinv | gfdiv | raddrc | round =>
    simp only [commandEffect, gfinvEffect, gfdivEffect, raddrcEffect, roundEffect, withRoundIndex] at h
    split at h <;> cases h
    intro n
    cases n <;> simp [writeSet, agree]
  | _ =>
    cases h
    intro n
    cases n <;> simp [writeSet, agree, foldBuffer, clearBuffer]

/-- A fault taken writes STATUS alone (60_exceptions R147). -/
theorem agree_setStatus (r : Regs) (v : Byte) : ∀ n, n ≠ .status → agree r (r.setStatus v) n = true := by
  intro n
  cases n <;> simp [agree]

/-- Settles O21: an effect that completes keeps the registers outside its row and does not fault; one that raises a
fault writes STATUS alone. -/
theorem commandsWriteOnlyTheirRegisters : Obligations.CommandsWriteOnlyTheirRegisters := by
  intro i s t hlive ht
  rw [exec_of_live i hlive] at ht
  cases ht
  refine ⟨rfl, rfl, ?_⟩
  rw [State.setRegs_regs]
  cases he : commandEffect i s.regs with
  | ok r =>
    have hr : faulted r = false := faulted_of_commandEffect_ok hlive he
    exact ⟨fun _ => commandEffect_agree he, fun hf => absurd (hr.symm.trans hf) Bool.false_ne_true⟩
  | error f =>
    rw [settle, takeFault_eq, faulted_setStatus_faultCode]
    exact ⟨nofun, fun _ => agree_setStatus s.regs _⟩

/-! ## The column "reads" -/

/-- Two outcomes of an effect that the host cannot tell apart on the registers `ws`: one fault, or registers that agree
there. -/
def sameOutcome (ws : List RegName) : Except FaultCause Regs → Except FaultCause Regs → Prop
  | .ok u, .ok u' => ∀ n, n ∈ ws → agree u u' n = true
  | .error f, .error f' => f = f'
  | _, _ => False

/-- HUPD's outcome depends on FA, LEN, BUF and H: LEN says whether the block fills. -/
theorem hupdEffect_sameOutcome (rc : RoundConstants) {r r' : Regs} (hfa : r.fa = r'.fa) (hlen : r.len = r'.len)
    (hbuf : r.buf = r'.buf) (hh : r.h = r'.h) :
    sameOutcome (writeSet .hupd) (hupdEffect rc r) (hupdEffect rc r') := by
  by_cases hfull : r.len.toNat % 16 = 15
  · rw [hupdEffect_of_full rc hfull, hupdEffect_of_full rc (hlen ▸ hfull)]
    simp [sameOutcome, writeSet, agree, clearBuffer, foldBuffer, absorbByte, hfa, hlen, hbuf, hh]
  · rw [hupdEffect_of_room rc hfull, hupdEffect_of_room rc (hlen ▸ hfull)]
    simp [sameOutcome, writeSet, agree, hfa, hlen, hbuf, hh]

/-- HFIN's outcome depends on LEN, BUF and H: LEN says whether there is room for the length. -/
theorem hfinEffect_sameOutcome (rc : RoundConstants) {r r' : Regs} (hlen : r.len = r'.len) (hbuf : r.buf = r'.buf)
    (hh : r.h = r'.h) : sameOutcome (writeSet .hfin) (hfinEffect rc r) (hfinEffect rc r') := by
  by_cases hfull : r.len.toNat % 16 = 15
  · rw [hfinEffect_of_no_room rc hfull, hfinEffect_of_no_room rc (hlen ▸ hfull)]
    simp [sameOutcome, writeSet, agree, hlen, hbuf, hh]
  · rw [hfinEffect_of_room rc hfull, hfinEffect_of_room rc (hlen ▸ hfull)]
    simp [sameOutcome, writeSet, agree, hlen, hbuf, hh]

theorem agree_refl (r : Regs) (n : RegName) : agree r r n = true := by
  cases n <;> simp [agree]

/-- Registers that agree on what a command reads leave its effect with one outcome. -/
theorem commandEffect_sameOutcome {i : Instr} {r r' : Regs} (h : ∀ n, n ∈ readSet i → agree r r' n = true) :
    sameOutcome (writeSet i) (commandEffect i r) (commandEffect i r') := by
  cases i with
  | nop => exact nofun
  | srst => exact fun n _ => agree_refl resetRegs n
  | mzero | hinit => simp [sameOutcome, commandEffect, mzeroEffect, hinitEffect, clearBuffer, writeSet, agree]
  | hupd =>
    simp only [readSet, List.forall_mem_cons, agree, decide_eq_true_eq] at h
    obtain ⟨hfa, hlen, hbuf, hh, -⟩ := h
    exact hupdEffect_sameOutcome _ hfa hlen hbuf hh
  | hfin =>
    simp only [readSet, List.forall_mem_cons, agree, decide_eq_true_eq] at h
    obtain ⟨hlen, hbuf, hh, -⟩ := h
    exact hfinEffect_sameOutcome _ hlen hbuf hh
  | gfinv =>
    simp only [readSet, List.forall_mem_cons, agree, decide_eq_true_eq] at h
    simp only [commandEffect, gfinvEffect, h]
    cases modInv r'.fa <;> simp [sameOutcome, writeSet, agree]
  | gfdiv =>
    simp only [readSet, List.forall_mem_cons, agree, decide_eq_true_eq] at h
    simp only [commandEffect, gfdivEffect, h]
    cases longDivision r'.wa r'.wb <;> simp [sameOutcome, writeSet, agree]
  | raddrc | round =>
    simp only [readSet, List.forall_mem_cons, agree, decide_eq_true_eq] at h
    simp only [commandEffect, raddrcEffect, roundEffect, withRoundIndex, h]
    split <;> simp [sameOutcome, writeSet, agree]
  | gfadd | gfmul | gfdeg | sbox | madd | mmul | rsub | rshift | rdiff | rounds | cmpr =>
    simp only [readSet, List.forall_mem_cons, agree, decide_eq_true_eq] at h
    simp [sameOutcome, writeSet, agree, commandEffect, gfaddEffect, gfmulEffect, gfdegEffect, sboxEffect, maddEffect,
      mmulEffect, rsubEffect, rshiftEffect, rdiffEffect, roundsEffect, cmprEffect, foldBuffer, h]

/-- Settles O22: the one outcome of the two effects is a fault, whose code STATUS takes in both, or registers that
agree on what the command writes. -/
theorem commandsDependOnlyOnTheirOperands : Obligations.CommandsDependOnlyOnTheirOperands := by
  intro i s s' t t' hlive hlive' hreads ht ht'
  rw [exec_of_live i hlive] at ht
  rw [exec_of_live i hlive'] at ht'
  cases ht
  cases ht'
  simp only [State.setRegs_regs]
  have hsame := commandEffect_sameOutcome hreads
  cases he : commandEffect i s.regs <;> cases he' : commandEffect i s'.regs <;> rw [he, he'] at hsame
  case error.error f f' =>
    obtain rfl : f = f' := hsame
    simp only [settle, takeFault_eq, faulted_setStatus_faultCode, Regs.setStatus_status]
    exact ⟨trivial, fun _ => trivial, nofun⟩
  case error.ok => exact hsame.elim
  case ok.error => exact hsame.elim
  case ok.ok u u' =>
    have hu : faulted u = false := faulted_of_commandEffect_ok hlive he
    have hu' : faulted u' = false := faulted_of_commandEffect_ok hlive' he'
    simp only [settle, hu, hu']
    exact ⟨trivial, nofun, fun _ => hsame⟩

end Sys2Proof.Machine

/-!
# The invariant of the registers (10_state R25)

STATUS is written by reset and by a fault taken, DG by reset and by GFDEG. Both writes are legal whatever the state, so
the invariant is kept from every state that meets it.
-/

namespace Sys2Proof.Machine

/-! ## What is written to STATUS and to DG is legal -/

theorem inv_iff (s : State) :
    s.inv = true ↔ legalStatus s.regs.status = true ∧ legalDegree s.regs.dg = true := by
  rw [State.inv, Bool.and_eq_true]

/-- The invariant constrains STATUS and DG alone. -/
theorem inv_congr {s t : State} (hstatus : t.regs.status = s.regs.status) (hdg : t.regs.dg = s.regs.dg) :
    t.inv = s.inv := by
  rw [State.inv, State.inv, hstatus, hdg]

theorem legalStatus_faultCode (f : FaultCause) : legalStatus (faultCode f) = true := by
  cases f <;> decide

/-- A wide has degree at most 15 (40_field R65). -/
theorem degree_le_fifteen {w : Wide} {d : Nat} (h : degree w = some d) : d ≤ 15 := by
  rw [degree] at h
  split at h
  · cases h
  next hw =>
    cases h
    exact Nat.le_of_lt_succ ((Nat.log2_lt hw).mpr w.isLt)

theorem legalDegree_degreeByte (w : Wide) : legalDegree (degreeByte (degree w)) = true := by
  cases hd : degree w with
  | none => rfl
  | some d =>
    have hle : (BitVec.ofNat 8 d).toNat ≤ 0x0F := (Nat.mod_le _ _).trans (degree_le_fifteen hd)
    rw [legalDegree, degreeByte, decide_eq_true hle, Bool.true_or]

/-! ## Commands and register writes -/

theorem agree_dg_iff {r r' : Regs} : agree r r' .dg = true ↔ r.dg = r'.dg := decide_eq_true_iff

/-- No effect but GFDEG's and SRST's writes DG: it stands in no other row of the register-use table. -/
theorem commandEffect_dg {i : Instr} (hdeg : i ≠ .gfdeg) (hsrst : i ≠ .srst) {r r' : Regs}
    (h : commandEffect i r = .ok r') : r'.dg = r.dg := by
  have hrow : RegName.dg ∉ writeSet i := by
    cases i <;> simp_all [writeSet]
  exact (agree_dg_iff.mp (commandEffect_agree h .dg hrow)).symm

/-- DG after an effect that completes is as it was, the degree of WA, or its reset value. -/
theorem commandEffect_legalDegree {i : Instr} {r r' : Regs} (hr : legalDegree r.dg = true)
    (h : commandEffect i r = .ok r') : legalDegree r'.dg = true := by
  by_cases hdeg : i = .gfdeg
  · subst hdeg
    cases h
    exact legalDegree_degreeByte r.wa
  by_cases hsrst : i = .srst
  · subst hsrst
    cases h
    rfl
  rwa [commandEffect_dg hdeg hsrst h]

/-- STATUS after an effect that completes is as it was or its reset value. -/
theorem commandEffect_legalStatus {i : Instr} {r r' : Regs} (hr : legalStatus r.status = true)
    (h : commandEffect i r = .ok r') : legalStatus r'.status = true := by
  by_cases hsrst : i = .srst
  · subst hsrst
    cases h
    rfl
  rwa [commandEffect_status hsrst h]

/-- A fault taken writes a code of R140 to STATUS and leaves DG (60_exceptions R147). -/
theorem inv_takeFault {s : State} (hs : s.inv = true) (f : FaultCause) :
    (s.setRegs (takeFault s.regs f)).inv = true :=
  (inv_iff _).mpr ⟨legalStatus_faultCode f, ((inv_iff s).mp hs).2⟩

theorem exec_inv {i : Instr} {s t : State} (hs : s.inv = true) (ht : exec i s = .next t) : t.inv = true := by
  cases hf : faulted s.regs with
  | true =>
    by_cases hsrst : i = .srst
    · subst hsrst
      cases ht
      rfl
    · rw [exec_of_faulted hsrst hf] at ht
      cases ht
      exact hs
  | false =>
    rw [exec_of_live i hf] at ht
    cases ht
    cases he : commandEffect i s.regs with
    | ok r =>
      obtain ⟨hstatus, hdg⟩ := (inv_iff s).mp hs
      exact (inv_iff _).mpr ⟨commandEffect_legalStatus hstatus he, commandEffect_legalDegree hdg he⟩
    | error f => exact inv_takeFault hs f

/-- A byte written to CMD keeps the invariant, a command's code or not. -/
theorem writeCommand_inv {c : Byte} {s t : State} (hs : s.inv = true) (ht : writeCommand c s = .next t) :
    t.inv = true := by
  cases hd : decode c with
  | ok i => exact exec_inv hs (writeCommand_of_ok hd s ▸ ht)
  | error e =>
    rw [writeCommand_of_error hd] at ht
    obtain ⟨-, rfl⟩ | ⟨-, r, he, -⟩ | ⟨-, f, -, rfl⟩ := command_cases ht
    · exact hs
    · cases he
    · exact inv_takeFault hs f

/-- DG is read only: no register write reaches it (20_memory R31). -/
theorem writeLocation_dg (r : Regs) (d : Byte) (loc : Location) : (writeLocation r d loc).dg = r.dg := by
  cases loc <;> rfl

theorem storeByte_inv (s : State) (loc : Location) (d : Byte) : (s.storeByte loc d).inv = s.inv := by
  cases hf : faulted s.regs with
  | true => rw [storeByte_of_faulted hf]
  | false =>
    rw [storeByte_of_live hf]
    exact inv_congr (writeLocation_status s.regs d loc) (writeLocation_dg s.regs d loc)

/-! ## The step -/

theorem carryOut_inv {e : HostEvent} {s t : State} (hs : s.inv = true) (ht : carryOut e s = .next t) :
    t.inv = true := by
  cases e with
  | read addr =>
    cases ht
    exact hs
  | resetInput =>
    cases ht
    rfl
  | write addr d =>
    rw [carryOut_write] at ht
    by_cases ha : addr = 0x00
    · subst ha
      exact writeCommand_inv hs ht
    · rw [busWrite_of_ne ha] at ht
      cases ht
      rwa [storeByte_inv]

/-- Settles O3: STATUS and DG are zero after reset. -/
theorem resetStateMeetsTheInvariant : Obligations.ResetStateMeetsTheInvariant := by
  refine (inv_iff _).mpr ?_
  rw [State.reset_regs, resetRegs_status, resetRegs_dg]
  decide

/-- Settles O4: the events of the host one by one; with none, the state is the same. -/
theorem everyStepKeepsStatusAndDegreeLegal : Obligations.EveryStepKeepsStatusAndDegreeLegal := by
  intro s t hs ht
  cases hscript : s.script with
  | nil =>
    rw [step_nil hscript] at ht
    cases ht
    exact hs
  | cons e rest =>
    rw [step_cons hscript] at ht
    exact carryOut_inv (s := s.withScript rest) hs ht

end Sys2Proof.Machine

/-!
# Steps and the bus (00_scope R8, 20_memory R31 to R33)

A step is the host's next transaction carried out: a read, a write, or nothing. A write of a command's code to CMD is
the command, and a read answers the byte its address names.
-/

namespace Sys2Proof.Machine

/-! ## Steps -/

/-- A step whose transaction writes the code of a command to CMD executes the command (20_memory R33). -/
theorem step_write_of_decode {s : State} {c : Byte} {rest : List HostEvent} {i : Instr}
    (h : s.script = .write 0x00 c :: rest) (hd : decode c = .ok i) : step s = exec i (s.withScript rest) := by
  rw [step_write_cmd h, writeCommand_of_ok hd]

theorem decode_tableByte {nbits w : Nat} {i : Instr} (h : decodeTableWord nbits w = some i) :
    decode (tableByte nbits w) = .ok i := by
  rw [decodeTableWord] at h
  split at h
  next j hj =>
    cases h
    exact hj
  next => cases h

/-- Settles O9: the state of `withFetchWord` has the write of the table word's byte to CMD at the head of its list. -/
theorem stepExecutesTheDecodedCommand : Obligations.StepExecutesTheDecodedCommand :=
  ⟨fun _ _ _ _ h hd => step_write_of_decode h hd,
    fun s _ _ _ hw => step_write_of_decode (rest := s.script) rfl (decode_tableByte hw)⟩

theorem step_write {s : State} {addr d : Byte} {rest : List HostEvent} (h : s.script = .write addr d :: rest) :
    step s = busWrite addr d (s.withScript rest) := by
  rw [step_cons h, carryOut_write]

/-- Settles O10: one rule of the step for a read, one for a write, one for the empty list. -/
theorem stepCarriesOutOneTransaction : Obligations.StepCarriesOutOneTransaction :=
  ⟨fun _ _ _ h => step_read h, fun _ _ _ _ h => step_write h, fun _ h => step_nil h⟩

theorem command_completes (s : State) (e : Regs → Except FaultCause Regs) : ∃ t, s.command e = .next t := ⟨_, rfl⟩

theorem exec_completes (i : Instr) (s : State) : ∃ t, exec i s = .next t := by
  by_cases hi : i = .srst
  · exact ⟨_, hi ▸ exec_srst s⟩
  · exact exec_eq_command hi s ▸ command_completes s _

theorem writeCommand_completes (c : Byte) (s : State) : ∃ t, writeCommand c s = .next t := by
  cases hd : decode c with
  | ok i => exact writeCommand_of_ok hd s ▸ exec_completes i s
  | error e => exact writeCommand_of_error hd s ▸ command_completes s _

theorem carryOut_completes (e : HostEvent) (s : State) : ∃ t, carryOut e s = .next t := by
  cases e with
  | read addr => exact ⟨_, carryOut_read addr s⟩
  | resetInput => exact ⟨_, carryOut_resetInput s⟩
  | write addr d =>
    rw [carryOut_write]
    by_cases ha : addr = 0x00
    · subst ha
      exact writeCommand_completes d s
    · exact ⟨_, busWrite_of_ne ha d s⟩

/-- Settles O20: no event of the host, and so no step, ends otherwise than in a next state. -/
theorem everyCommandAndStepCompletes : Obligations.EveryCommandAndStepCompletes := by
  refine ⟨exec_completes, fun s => ?_⟩
  cases h : s.script with
  | nil => exact ⟨s, step_nil h⟩
  | cons e rest => exact step_cons h ▸ carryOut_completes e _

/-! ## The address map -/

theorem busRead_of_locate {addr : Byte} {loc : Location} (h : locate addr = loc) (s : State) :
    busRead addr s = readLocation s.regs loc := by
  rw [busRead, h]

/-- The five banks of sixteen (20_memory R31). -/
theorem locate_bank : ∀ k : Fin 16,
    locate (BitVec.ofNat 8 (0x10 + k.val)) = .ma k ∧ locate (BitVec.ofNat 8 (0x20 + k.val)) = .mb k ∧
    locate (BitVec.ofNat 8 (0x30 + k.val)) = .mr k ∧ locate (BitVec.ofNat 8 (0x40 + k.val)) = .h k ∧
    locate (BitVec.ofNat 8 (0x50 + k.val)) = .buf k := by decide

/-- The reserved addresses (20_memory R34). -/
theorem locate_reserved : ∀ addr : Byte, addr = 0x0F ∨ 0x60 ≤ addr.toNat → locate addr = .reserved := by decide

theorem busRead_bank (s : State) (k : Fin 16) :
    busRead (BitVec.ofNat 8 (0x10 + k.val)) s = s.regs.ma[k] ∧
    busRead (BitVec.ofNat 8 (0x20 + k.val)) s = s.regs.mb[k] ∧
    busRead (BitVec.ofNat 8 (0x30 + k.val)) s = s.regs.mr[k] ∧
    busRead (BitVec.ofNat 8 (0x40 + k.val)) s = s.regs.h[k] ∧
    busRead (BitVec.ofNat 8 (0x50 + k.val)) s = s.regs.buf[k] := by
  obtain ⟨hma, hmb, hmr, hh, hbuf⟩ := locate_bank k
  exact ⟨busRead_of_locate hma s, busRead_of_locate hmb s, busRead_of_locate hmr s, busRead_of_locate hh s,
    busRead_of_locate hbuf s⟩

/-- Settles O11: the map at each single-byte address, the banks by `busRead_bank`, the reserved addresses by
`locate_reserved`; a read step answers the byte and keeps the registers. -/
theorem busReadAnswersTheAddressMap : Obligations.BusReadAnswersTheAddressMap := by
  intro s
  refine ⟨rfl, rfl, rfl, rfl, rfl, rfl, rfl, rfl, rfl, rfl, rfl, rfl, rfl, rfl, busRead_bank s, busRead_cmd s,
    fun addr h => busRead_of_locate (locate_reserved addr h) s, fun addr rest h => ⟨_, step_read h, rfl, rfl⟩⟩

/-- Settles O13: the rights of the map at each of the 256 addresses. -/
theorem readWriteAddressesAreTheMapOnes : Obligations.ReadWriteAddressesAreTheMapOnes := by
  unfold Obligations.ReadWriteAddressesAreTheMapOnes
  decide

end Sys2Proof.Machine

/-!
# The field's product (40_field R61 to R64, R67, R71, R72)

ClMul and MulMod add up over each operand, so that MulMod is the remainder of ClMul by the modulus is a fact about the
products of monomials. The field laws are those of `mulMod`, and the inverse is the one ModInv answers.
-/

namespace Sys2Proof.Machine

/-! ## The reduction (40_field R62, R63) -/

theorem setWidth_rawProduct (a b : Byte) :
    (rawProduct a b).setWidth 8 = BitVec.ofNat 8 (clMul a.toNat b.toNat) := by
  rw [rawProduct]
  exact BitVec.setWidth_ofNat_of_le (by decide) _

theorem getLsbD_rawProduct (a b : Byte) {k : Nat} (hk : k < 16) :
    (rawProduct a b).getLsbD k = (clMul a.toNat b.toNat).testBit k := by
  rw [rawProduct, BitVec.getLsbD_ofNat, decide_eq_true hk, Bool.true_and]

/-- Settles O25: the reduction reads the unreduced product at the bits 8 to 14 and at its low byte, where narrowing to a
wide loses nothing. -/
theorem gfmulWritesTheReducedProduct : Obligations.GfmulWritesTheReducedProduct := by
  refine ⟨fun s hlive => exec_of_live .gfmul hlive, fun a b => ?_⟩
  rw [mulMod, reduceWide_eq_foldl, setWidth_rawProduct]
  refine List.foldl_ext _ _ _ fun z e he => ?_
  have hdeg : ∀ e ∈ reductionTable, e.1 < 16 := by decide
  rw [applyIdentity, getLsbD_rawProduct a b (hdeg e he)]

/-- The quotient of x^k by the modulus has degree at most 6. -/
theorem reductionTable_remainders : ∀ e ∈ reductionTable, ∃ q : Fin 128,
    2 ^ e.1 = clMul q.val 0x012B ^^^ e.2.toNat := by decide +kernel

/-- Settles O27: one quotient for each of the seven identities. -/
theorem reductionIdentitiesAreRemainders : Obligations.ReductionIdentitiesAreRemainders :=
  ⟨rfl, fun e he => (reductionTable_remainders e he).imp' Fin.val fun _ => id⟩

/-- x is congruent to y modulo the modulus: they differ by a polynomial multiple of it (40_field R62). -/
def congruentModulus (x y : Nat) : Prop := ∃ q : Nat, x = clMul q 0x012B ^^^ y

theorem congruentModulus_xor {x x' y y' : Nat} (h : congruentModulus x y) (h' : congruentModulus x' y') :
    congruentModulus (x ^^^ x') (y ^^^ y') := by
  obtain ⟨q, rfl⟩ := h
  obtain ⟨q', rfl⟩ := h'
  refine ⟨q ^^^ q', ?_⟩
  rw [clMul_xor_left]
  ac_rfl

theorem congruentModulus_zero : congruentModulus 0 0 := ⟨0, by decide⟩

theorem clMul_xor_right (u v v' : Nat) : clMul u (v ^^^ v') = clMul u v ^^^ clMul u v' := by
  rw [clMul_comm, clMul_xor_left, clMul_comm v, clMul_comm v']

theorem clMul_congruent_monomials : ∀ i j : Fin 8, ∃ q : Fin 128,
    clMul (BitVec.twoPow 8 i).toNat (BitVec.twoPow 8 j).toNat =
      clMul q.val 0x012B ^^^ (mulMod (BitVec.twoPow 8 i) (BitVec.twoPow 8 j)).toNat := by decide +kernel

/-- Both sides add up over each of the two operands. -/
theorem clMul_congruent_mulMod (a b : Byte) : congruentModulus (clMul a.toNat b.toNat) (mulMod a b).toNat := by
  induction a using byte_xor_induction with
  | zero =>
    rw [mulMod_zero_left, clMul_comm]
    simpa using congruentModulus_zero
  | add a a' ha ha' =>
    rw [mulMod_xor_left, BitVec.toNat_xor, BitVec.toNat_xor, clMul_xor_left]
    exact congruentModulus_xor ha ha'
  | monomial i =>
    induction b using byte_xor_induction with
    | zero =>
      rw [mulMod_zero_right]
      simpa using congruentModulus_zero
    | add b b' hb hb' =>
      rw [mulMod_xor_right, BitVec.toNat_xor, BitVec.toNat_xor, clMul_xor_right]
      exact congruentModulus_xor hb hb'
    | monomial j => exact (clMul_congruent_monomials i j).imp' Fin.val fun _ => id

/-- Settles O28: the congruence of the two products. -/
theorem mulModIsThePolynomialRemainder : Obligations.MulModIsThePolynomialRemainder := clMul_congruent_mulMod

/-! ## The field laws and the inverse (40_field R60, R64, R67) -/

/-- ModInv raises no fault: no operand has NoInverse (40_field R67). -/
theorem modInv_completes (a : Byte) : ∃ y, modInv a = .ok y := (sboxTableIsAffineOverInverse a).imp fun _ => And.left

theorem modInv_zero : modInv 0 = .ok 0 := rfl

/-- What ModInv answers for a nonzero byte is its inverse. -/
theorem mulMod_eq_one_of_modInv {a y : Byte} (ha : a ≠ 0) (hy : modInv a = .ok y) : mulMod a y = 1 := by
  have hmap := modInv_map_mulMod a ha
  rw [hy] at hmap
  exact Except.ok.inj hmap

/-- Settles O29: exclusive-or is a group of exponent two; the product's laws are those of `mulMod`; the inverse is the
one ModInv answers. -/
theorem fieldLawsHold : Obligations.FieldLawsHold := by
  refine ⟨fun a b c => ⟨BitVec.xor_comm a b, (BitVec.xor_assoc a b c).symm, BitVec.xor_zero, BitVec.xor_self⟩,
    fun a b c => ⟨mulMod_comm a b, mulMod_xor_right a b c, mulMod_zero_right a, mulMod_one_right a,
      mulMod_assoc a b c⟩, fun a ha => ?inverse⟩
  case inverse =>
    obtain ⟨y, hy⟩ := modInv_completes a
    have hinv := mulMod_eq_one_of_modInv ha hy
    exact ⟨y, hinv, fun z hz => inverse_unique hz hinv⟩

/-- GFINV raises no fault: FR takes what ModInv answers (40_field R72). -/
theorem exec_gfinv_of_live {s : State} (hlive : faulted s.regs = false) {y : Byte} (hy : modInv s.regs.fa = .ok y) :
    exec .gfinv s = .next (s.setRegs (s.regs.setFr y)) := by
  rw [exec_of_live _ hlive, commandEffect, gfinvEffect, hy]
  rfl

/-- Settles O30: FR takes ModInv's answer, which is 0 for 0 and else the inverse of FA. -/
theorem gfinvWritesTheInverse : Obligations.GfinvWritesTheInverse := by
  intro s hlive
  obtain ⟨y, hy⟩ := modInv_completes s.regs.fa
  refine ⟨y, exec_gfinv_of_live hlive hy, fun hzero => ?zero, fun hne => ?nonzero⟩
  case zero =>
    rw [hzero, modInv_zero] at hy
    exact (Except.ok.inj hy).symm
  case nonzero =>
    have hinv := mulMod_eq_one_of_modInv hne hy
    exact ⟨hinv, fun z hz => inverse_unique hz hinv⟩

end Sys2Proof.Machine

/-!
# Polynomial division and the faults it raises (40_field R66, R74, 60_exceptions R141, R142, R157)

Each pass of the division loop moves a monomial's multiple of the divisor from the remainder to the quotient, so the
identity n = q·d + r is kept. Quotient and remainder are determined by the identity and the bound on the degree of r:
whatever the statements assume of q and r, they are the pair LongDivision tests.
-/

namespace Sys2Proof.Machine

/-! ## Euclidean division of polynomials -/

/-- Below the single bit of x^k no partial product is added. -/
theorem clMulBelow_two_pow_of_le (u : Nat) {k n : Nat} (hn : n ≤ k) : clMulBelow u (2 ^ k) n = 0 := by
  induction n with
  | zero => rfl
  | succ n ih =>
    have hbit : (2 ^ k).testBit n = false := by
      rw [Nat.testBit_two_pow]
      exact decide_eq_false (by omega)
    simp only [clMulBelow, ih (by omega), hbit, Bool.false_eq_true, if_false, Nat.xor_zero]

/-- The product with a monomial is a shift (40_field R61). -/
theorem clMul_two_pow_right (u k : Nat) : clMul u (2 ^ k) = u <<< k := by
  rw [clMul, Nat.log2_two_pow, clMulBelow, clMulBelow_two_pow_of_le u le_rfl, if_pos Nat.testBit_two_pow_self,
    Nat.zero_xor]

/-- The monomial that a pass adds to the quotient fits a wide. -/
theorem toNat_monomial {k : Nat} (hk : k < 16) : ((1 <<< k : Nat) : Wide).toNat = 2 ^ k := by
  rw [BitVec.natCast_eq_ofNat, BitVec.toNat_ofNat, Nat.one_shiftLeft,
    Nat.mod_eq_of_lt (Nat.pow_lt_pow_right (by decide) hk)]

theorem toNat_ne_zero {w : Nat} {v : BitVec w} (h : v ≠ 0) : v.toNat ≠ 0 := fun h0 =>
  h (BitVec.eq_of_toNat_eq (by simpa using h0))

/-- What a pass adds to q·d and to r is the same. -/
theorem xor_cancel_common (x y z : Nat) : x ^^^ z ^^^ (y ^^^ z) = x ^^^ y := by
  rw [Nat.xor_comm y z, ← Nat.xor_assoc, Nat.xor_xor_cancel_right]

/-- The loop keeps q·d + r (40_field R66). -/
theorem divLoop_identity (fuel : Nat) {d : Wide} (hd : d.toNat ≠ 0) : ∀ q r : Wide,
    clMul (divLoop fuel d q r).1.toNat d.toNat ^^^ (divLoop fuel d q r).2.toNat =
      clMul q.toNat d.toNat ^^^ r.toNat := by
  induction fuel with
  | zero => exact fun _ _ => rfl
  | succ fuel ih =>
    intro q r
    by_cases hr : r.toNat = 0
    · simp [divLoop, degree, hr]
    · simp only [divLoop, degree, hr, hd, if_false]
      split
      next hle =>
        have hk : r.toNat.log2 - d.toNat.log2 < 16 := by
          have := (Nat.log2_lt hr).mpr r.isLt
          omega
        rw [ih, BitVec.toNat_xor, BitVec.toNat_xor, clMul_xor_left, toNat_monomial hk,
          (toNat_shiftLeft_aligned hd hr hle).1, clMul_comm (2 ^ _), clMul_two_pow_right]
        exact xor_cancel_common _ _ _
      next => rfl

/-- A multiple of d of a degree below d's is zero: the degrees of nonzero operands add. -/
theorem eq_zero_of_clMul_lt {q d : Nat} (hd : d ≠ 0) (h : clMul q d < 2 ^ d.log2) : q = 0 := by
  by_contra hq
  obtain ⟨hne, hlog⟩ := clMul_ne_zero_and_log2 hq hd
  have := (Nat.log2_lt hne).mpr h
  omega

/-- Quotient and remainder are unique. -/
theorem quotient_remainder_unique {d q r q' r' : Nat} (hd : d ≠ 0) (h : clMul q d ^^^ r = clMul q' d ^^^ r')
    (hr : r < 2 ^ d.log2) (hr' : r' < 2 ^ d.log2) : q = q' ∧ r = r' := by
  have hdiff : clMul (q ^^^ q') d = r ^^^ r' := by
    rw [← Nat.xor_eq_zero_iff] at h ⊢
    rw [clMul_xor_left, ← h]
    ac_rfl
  have hq : q = q' := Nat.xor_eq_zero_iff.mp (eq_zero_of_clMul_lt hd (hdiff ▸ Nat.xor_lt_two_pow hr hr'))
  subst hq
  exact ⟨rfl, Nat.xor_right_injective h⟩

/-- Every division by a nonzero polynomial has a quotient and a remainder, and LongDivision tests them. -/
theorem exists_quotient_remainder (n : Wide) {d : Wide} (hd : d ≠ 0) : ∃ q r : Wide,
    n.toNat = clMul q.toNat d.toNat ^^^ r.toNat ∧ r.toNat < 2 ^ d.toNat.log2 ∧ longDivision n d = divResult (q, r) := by
  refine ⟨(divLoop 16 d 0 n).1, (divLoop 16 d 0 n).2, ?_, divLoop_sixteen_exit hd n, if_neg hd⟩
  rw [divLoop_identity 16 (toNat_ne_zero hd)]
  simp [clMul_comm 0]

/-- Whatever quotient and remainder the identity names, LongDivision tests them. -/
theorem longDivision_eq_divResult {n d q r : Wide} (hd : d ≠ 0) (hid : n.toNat = clMul q.toNat d.toNat ^^^ r.toNat)
    (hr : r.toNat < 2 ^ d.toNat.log2) : longDivision n d = divResult (q, r) := by
  obtain ⟨q', r', hid', hr', hdiv⟩ := exists_quotient_remainder n hd
  obtain ⟨hq, hrem⟩ := quotient_remainder_unique (toNat_ne_zero hd) (hid'.symm.trans hid) hr' hr
  rw [hdiv, BitVec.eq_of_toNat_eq hq, BitVec.eq_of_toNat_eq hrem]

theorem divResult_of_le {q r : Wide} (h : r.toNat ≤ 0xFF) : divResult (q, r) = .ok (q, r.setWidth 8) := if_pos h

theorem divResult_of_gt {q r : Wide} (h : 0xFF < r.toNat) : divResult (q, r) = .error .remainderOverflow :=
  if_neg (Nat.not_le.mpr h)

theorem longDivision_zero (n : Wide) : longDivision n 0 = .error .divisionByZero := if_pos rfl

/-- Settles O33: the zero divisor is tested first; else the loop's quotient and remainder are the ones tested. -/
theorem longDivisionIsEuclidean : Obligations.LongDivisionIsEuclidean :=
  ⟨longDivision_zero, fun n _ hd => exists_quotient_remainder n hd⟩

/-! ## GFDIV (40_field R74) -/

theorem exec_gfdiv_of_ok {s : State} (hlive : faulted s.regs = false) {qr : Wide × Byte}
    (h : longDivision s.regs.wa s.regs.wb = .ok qr) :
    exec .gfdiv s = .next (s.setRegs ((s.regs.setWq qr.1).setRm qr.2)) := by
  rw [exec_of_live _ hlive, commandEffect, gfdivEffect, h]
  rfl

theorem exec_gfdiv_of_error {s : State} (hlive : faulted s.regs = false) {f : FaultCause}
    (h : longDivision s.regs.wa s.regs.wb = .error f) :
    exec .gfdiv s = .next (s.setRegs (s.regs.setStatus (faultCode f))) := by
  rw [exec_of_live _ hlive, commandEffect, gfdivEffect, h]
  rfl

/-- Settles O32: the pair of the identity passes LongDivision's test. -/
theorem gfdivStoresQuotientAndRemainder : Obligations.GfdivStoresQuotientAndRemainder := by
  intro s q r hlive hwb hid hr hbyte
  exact exec_gfdiv_of_ok hlive ((longDivision_eq_divResult hwb hid hr).trans (divResult_of_le hbyte))

/-! ## Which byte raises a fault of the division -/

theorem faultCode_injective : ∀ {f g : FaultCause}, faultCode f = faultCode g → f = g := by
  intro f g
  cases f <;> cases g <;> decide

theorem status_ne_faultCode_of_live {r : Regs} (hlive : faulted r = false) (f : FaultCause) :
    r.status ≠ faultCode f := fun h => by
  rw [faulted_congr (r' := r.setStatus (faultCode f)) h, faulted_setStatus_faultCode] at hlive
  cases hlive

/-- A fault code in STATUS after a write to CMD was raised by the byte: it is no command, or its effect raises it. -/
theorem raised_of_writeCommand {s t : State} {c : Byte} {f : FaultCause} (hlive : faulted s.regs = false)
    (ht : writeCommand c s = .next t) (hf : t.regs.status = faultCode f) :
    f = .illegalCommand ∨ ∃ i, decode c = .ok i ∧ commandEffect i s.regs = .error f := by
  cases hd : decode c with
  | error e =>
    rw [writeCommand_of_error hd, command_of_live hlive] at ht
    cases ht
    exact .inl (faultCode_injective (f := .illegalCommand) hf).symm
  | ok i =>
    rw [writeCommand_of_ok hd, exec_of_live i hlive] at ht
    cases ht
    cases he : commandEffect i s.regs with
    | ok r =>
      rw [State.setRegs_regs, he] at hf
      exact absurd hf (status_ne_faultCode_of_live (faulted_of_commandEffect_ok hlive he) f)
    | error g =>
      rw [State.setRegs_regs, he] at hf
      exact .inr ⟨i, rfl, he.trans (congrArg _ (faultCode_injective hf))⟩

/-- Of the commands, GFDIV alone raises a fault other than IllegalCommand: ModInv completes. -/
theorem eq_gfdiv_of_commandEffect_error {i : Instr} {r : Regs} {f : FaultCause} (hf : f ≠ .illegalCommand)
    (h : commandEffect i r = .error f) : i = .gfdiv ∧ longDivision r.wa r.wb = .error f := by
  obtain ⟨-, hinv⟩ | hdiv | ⟨rfl, -⟩ := commandEffect_error h
  · obtain ⟨y, hy⟩ := modInv_completes r.fa
    cases hy.symm.trans hinv
  · exact hdiv
  · exact absurd rfl hf

/-- A code other than 4 in STATUS after a write to CMD is that of GFDIV's division. -/
theorem division_raised_of_busWrite {s t : State} {c : Byte} {f : FaultCause} (hf : f ≠ .illegalCommand)
    (hlive : faulted s.regs = false) (ht : busWrite 0x00 c s = .next t) (hst : t.regs.status = faultCode f) :
    c = 0x14 ∧ longDivision s.regs.wa s.regs.wb = .error f := by
  rw [busWrite_cmd] at ht
  obtain ⟨i, hd, he⟩ := (raised_of_writeCommand hlive ht hst).resolve_left hf
  obtain ⟨rfl, hdiv⟩ := eq_gfdiv_of_commandEffect_error hf he
  exact ⟨(encode_of_decode hd).symm, hdiv⟩

/-- LongDivision raises DivisionByZero for the zero divisor alone (60_exceptions R141). -/
theorem divisor_eq_zero_of_divisionByZero {n d : Wide} (h : longDivision n d = .error .divisionByZero) : d = 0 := by
  by_contra hd
  obtain ⟨q, r, -, -, hdiv⟩ := exists_quotient_remainder n hd
  rw [hdiv, divResult] at h
  split at h <;> cases h

/-- Settles O17: a code 1 is that of GFDIV's division, which raises it for the zero divisor alone. -/
theorem divisionByZeroIsGfdivWithZeroDivisor : Obligations.DivisionByZeroIsGfdivWithZeroDivisor := by
  refine ⟨fun s hlive hwb => ?raised, fun s t c hlive ht hst => ?only⟩
  case raised =>
    exact exec_gfdiv_of_error hlive (hwb ▸ longDivision_zero s.regs.wa)
  case only =>
    obtain ⟨hc, hdiv⟩ := division_raised_of_busWrite (f := .divisionByZero) nofun hlive ht hst
    exact ⟨hc, divisor_eq_zero_of_divisionByZero hdiv⟩

/-- A remainder above 0xFF has degree at least 8, so the divisor has degree at least 9 (60_exceptions R142). -/
theorem divisor_ge_of_wide_remainder {d r : Nat} (hr : r < 2 ^ d.log2) (hwide : 0xFF < r) : 0x0200 ≤ d := by
  have hlog : 8 < d.log2 := (Nat.pow_lt_pow_iff_right (by decide : 1 < 2)).mp (lt_of_le_of_lt hwide hr)
  have hd : d ≠ 0 := by
    rintro rfl
    exact absurd hlog (by decide)
  exact (Nat.le_log2 hd).mp hlog

/-- LongDivision raises RemainderOverflow for a remainder above 0xFF alone (60_exceptions R142). -/
theorem wide_remainder_of_remainderOverflow {n d : Wide} (h : longDivision n d = .error .remainderOverflow) :
    ∃ q r : Wide, n.toNat = clMul q.toNat d.toNat ^^^ r.toNat ∧ r.toNat < 2 ^ d.toNat.log2 ∧ 0xFF < r.toNat := by
  have hd : d ≠ 0 := by
    rintro rfl
    cases (longDivision_zero n).symm.trans h
  obtain ⟨q, r, hid, hr, hdiv⟩ := exists_quotient_remainder n hd
  refine ⟨q, r, hid, hr, Nat.lt_of_not_le fun hle => ?_⟩
  cases (hdiv.symm.trans h).symm.trans (divResult_of_le hle)

/-- Settles O18: the pair of the identity fails LongDivision's test, and a code 2 is that of a pair that fails it. -/
theorem remainderOverflowIsGfdivWithWideRemainder : Obligations.RemainderOverflowIsGfdivWithWideRemainder := by
  refine ⟨fun s q r hlive hwb hid hr hwide => ⟨?raised, divisor_ge_of_wide_remainder hr hwide⟩,
    fun s t c hlive ht hst => ?only⟩
  case raised =>
    exact exec_gfdiv_of_error hlive ((longDivision_eq_divResult hwb hid hr).trans (divResult_of_gt hwide))
  case only =>
    obtain ⟨hc, hdiv⟩ := division_raised_of_busWrite (f := .remainderOverflow) nofun hlive ht hst
    obtain ⟨q, r, hid, hr, hwide⟩ := wide_remainder_of_remainderOverflow hdiv
    exact ⟨hc, divisor_ge_of_wide_remainder hr hwide, q, r, hid, hr, hwide⟩

/-! ## The hash path (60_exceptions R157) -/

/-- A command of the hash path raises no fault: its round index is legal, and it is not GFDIV. -/
theorem commandEffect_completes_of_hashPath {i : Instr} (hi : hashPathCommand i = true) (r : Regs) :
    ∃ r', commandEffect i r = .ok r' := by
  cases he : commandEffect i r with
  | ok r' => exact ⟨r', rfl⟩
  | error f =>
    by_cases hf : f = .illegalCommand
    · subst hf
      have hwf := (commandEffect_eq_illegalCommand_iff i r).mp he
      cases i <;> simp_all [hashPathCommand, Instr.wellFormed]
    · obtain ⟨rfl, -⟩ := eq_gfdiv_of_commandEffect_error hf he
      cases hi

theorem faulted_of_status_zero {r : Regs} (h : r.status = 0) : faulted r = false := by
  rw [faulted, h]
  rfl

/-- A command of the hash path leaves STATUS as it was (10_state R20). -/
theorem exec_status_of_hashPath {i : Instr} (hi : hashPathCommand i = true) {s t : State}
    (hs : s.regs.status = 0) (ht : exec i s = .next t) : t.regs.status = 0 := by
  obtain ⟨r, he⟩ := commandEffect_completes_of_hashPath hi s.regs
  have hsrst : i ≠ .srst := by
    rintro rfl
    cases hi
  rw [exec_of_live i (faulted_of_status_zero hs), he] at ht
  cases ht
  exact (commandEffect_status hsrst he).trans hs

/-- A write of the hash path is a command's code to CMD, the command of the path, or goes to another address. -/
theorem hashPathEvent_write {addr d : Byte} (h : hashPathEvent (.write addr d) = true) :
    (addr = 0x00 ∧ ∃ i, decode d = .ok i ∧ hashPathCommand i = true) ∨ addr ≠ 0x00 := by
  by_cases ha : addr = 0x00
  · subst ha
    refine .inl ⟨rfl, ?_⟩
    have hcmd : locate 0x00 = .cmd := (locate_eq_cmd_iff 0x00).mpr rfl
    simp only [hashPathEvent, hcmd] at h
    split at h
    next i hd => exact ⟨i, hd, h⟩
    next => cases h
  · exact .inr ha

/-- Settles O19: a read changes no register, a register write does not reach STATUS, and a command of the path raises no
fault. -/
theorem hashPathKeepsStatusZero : Obligations.HashPathKeepsStatusZero := by
  intro s t e rest hs he hscript ht
  cases e with
  | resetInput => cases he
  | read addr =>
    rw [step_read hscript] at ht
    cases ht
    exact hs
  | write addr d =>
    obtain ⟨rfl, i, hd, hi⟩ | ha := hashPathEvent_write he
    · rw [step_write_of_decode hscript hd] at ht
      exact exec_status_of_hashPath (s := s.withScript rest) hi hs ht
    · rw [step_write hscript, busWrite_of_live (s := s.withScript rest) (faulted_of_status_zero hs) ha] at ht
      cases ht
      exact (writeLocation_status s.regs d (locate addr)).trans hs

end Sys2Proof.Machine

/-!
# The S-box, the matrix product and the round commands (41_sbox R85, 42_matrix R89, 43_round R95, R103 to R109)

The S-box is an affine map after inversion, and both are injective. The laws of the matrix product are laws of `dot`,
the sum of four field products, cell by cell. ROUND's effect is one step of the fold by which ROUNDS computes, so any
run of ROUND commands is the fold over their indexes.
-/

namespace Sys2Proof.Machine

/-! ## The S-box is a permutation (41_sbox R83) -/

/-- Inversion is its own inverse, 0 for 0 included (40_field R67). -/
theorem modInv_involutive {a y : Byte} (h : modInv a = .ok y) : modInv y = .ok a := by
  by_cases ha : a = 0
  · subst ha
    cases modInv_zero.symm.trans h
    exact modInv_zero
  · exact modInv_eq_ok_of_mulMod_eq_one ((mulMod_comm y a).trans (mulMod_eq_one_of_modInv ha h))

/-- Multiplication by a nonzero byte is injective. -/
theorem mulMod_left_cancel {c y z : Byte} (hc : c ≠ 0) (h : mulMod c y = mulMod c z) : y = z := by
  obtain ⟨d, hd⟩ := modInv_completes c
  have hinv : ∀ x, mulMod d (mulMod c x) = x := fun x => by
    rw [mulMod_assoc, mulMod_comm d, mulMod_eq_one_of_modInv hc hd, mulMod_comm, mulMod_one_right]
  rw [← hinv y, h, hinv]

/-- The affine map of R85 and the inversion under it are injective. -/
theorem subByte_injective : Function.Injective subByte := by
  intro a a' h
  obtain ⟨y, hy, hentry⟩ := sboxTableIsAffineOverInverse a
  obtain ⟨y', hy', hentry'⟩ := sboxTableIsAffineOverInverse a'
  rw [hentry, hentry', fieldAdd, fieldAdd, BitVec.xor_left_inj] at h
  obtain rfl : y = y' := mulMod_left_cancel (by decide) h
  exact Except.ok.inj ((modInv_involutive hy).symm.trans (modInv_involutive hy'))

theorem subByte_ne_self : ∀ a : Byte, subByte a ≠ a := by decide +kernel

/-- Settles O36: no two bytes share an entry, and on a finite type that makes every byte one. -/
theorem sboxTableIsAPermutation : Obligations.SboxTableIsAPermutation :=
  ⟨Finite.injective_iff_surjective.mp subByte_injective, fun _ _ h => subByte_injective h, subByte_ne_self⟩

/-! ## The laws of the matrix product (42_matrix R89) -/

theorem dot_xor_left (f f' g : Fin 4 → Byte) : dot (fun k => f k ^^^ f' k) g = dot f g ^^^ dot f' g := by
  simp only [dot, mulMod_xor_left]
  ac_rfl

theorem dot_xor_right (f g g' : Fin 4 → Byte) : dot f (fun k => g k ^^^ g' k) = dot f g ^^^ dot f g' := by
  simp only [dot, mulMod_xor_right]
  ac_rfl

/-- The sixteen products of a row, a matrix and a column, summed in either order. -/
theorem dot_dot (f : Fin 4 → Byte) (b : Fin 4 → Fin 4 → Byte) (g : Fin 4 → Byte) :
    dot (fun l => dot f fun k => b k l) g = dot f fun k => dot (b k) g := by
  simp only [dot, mulMod_xor_left, mulMod_xor_right, mulMod_assoc]
  ac_rfl

theorem matMul_assoc (a b c : Block) : matMul (matMul a b) c = matMul a (matMul b c) := by
  refine block_ext_cells fun i j => ?_
  simp only [cell_matMul]
  exact dot_dot _ (cell b) _

theorem matMul_matAdd (a b c : Block) : matMul a (matAdd b c) = matAdd (matMul a b) (matMul a c) := by
  refine block_ext_cells fun i j => ?_
  simp only [cell_matMul, cell_matAdd, dot_xor_right]

theorem matAdd_matMul (a b c : Block) : matMul (matAdd a b) c = matAdd (matMul a c) (matMul b c) := by
  refine block_ext_cells fun i j => ?_
  simp only [cell_matMul, cell_matAdd, dot_xor_left]

/-- The matrix with ones on the diagonal. -/
def identityBlock : Block := #v[1, 0, 0, 0, 0, 1, 0, 0, 0, 0, 1, 0, 0, 0, 0, 1]

theorem cell_identityBlock : ∀ i j : Fin 4, cell identityBlock i j = if i = j then 1 else 0 := by decide

theorem mulMod_one_left (a : Byte) : mulMod 1 a = a := by rw [mulMod_comm, mulMod_one_right]

theorem mulMod_unit_left (p : Prop) [Decidable p] (a : Byte) : mulMod (if p then 1 else 0) a = if p then a else 0 := by
  split
  · exact mulMod_one_left a
  · exact mulMod_zero_left a

/-- A unit row selects the entry at its one. -/
theorem dot_unit_left (i : Fin 4) (g : Fin 4 → Byte) : dot (fun k => if i = k then 1 else 0) g = g i := by
  simp only [dot, mulMod_unit_left]
  fin_cases i <;> simp

theorem dot_comm (f g : Fin 4 → Byte) : dot f g = dot g f := by
  simp only [dot, mulMod_comm (f _)]

/-- A unit column selects the entry at its one. -/
theorem dot_unit_right (f : Fin 4 → Byte) (j : Fin 4) : dot f (fun k => if k = j then 1 else 0) = f j := by
  simp only [dot_comm f, eq_comm (b := j), dot_unit_left]

theorem identityBlock_matMul (a : Block) : matMul identityBlock a = a := by
  refine block_ext_cells fun i j => ?_
  simp only [cell_matMul, cell_identityBlock, dot_unit_left]

theorem matMul_identityBlock (a : Block) : matMul a identityBlock = a := by
  refine block_ext_cells fun i j => ?_
  simp only [cell_matMul, cell_identityBlock, dot_unit_right]

/-- Settles O40: each law is one of `dot`. -/
theorem matrixProductLaws : Obligations.MatrixProductLaws :=
  ⟨matMul_assoc, fun a b c => ⟨matMul_matAdd a b c, matAdd_matMul a b c⟩,
    fun a => ⟨identityBlock_matMul a, matMul_identityBlock a⟩⟩

/-! ## RDIFF (43_round R95, R106) -/

/-- Settles O43: the four rows of the diffusion matrix, each met with a column of MA. -/
theorem rdiffMultipliesByTheCirculant : Obligations.RdiffMultipliesByTheCirculant := by
  intro s m hlive hbytes
  have hm : m = diffuse s.regs.ma := by
    rw [diffuse, diffusionMatrix_eq]
    refine eq_matMul_of_getElem fun i j => ?_
    obtain ⟨hrow0, hrow1, hrow2, hrow3⟩ := hbytes j
    fin_cases i
    · simpa using hrow0
    · exact hrow1
    · exact hrow2
    · exact hrow3
  rw [hm]
  exact exec_of_live .rdiff hlive

/-! ## A run of ROUND commands (43_round R102, R103, R108, R109) -/

/-- The registers with both matrices of the round replaced. -/
def setPair (r : Regs) (km : Block × Block) : Regs := (r.setMa km.1).setMb km.2

@[simp] theorem setPair_ma (r : Regs) (km : Block × Block) : (setPair r km).ma = km.1 := rfl
@[simp] theorem setPair_mb (r : Regs) (km : Block × Block) : (setPair r km).mb = km.2 := rfl
@[simp] theorem setPair_status (r : Regs) (km : Block × Block) : (setPair r km).status = r.status := rfl
@[simp] theorem setPair_setPair (r : Regs) (km km' : Block × Block) :
    setPair (setPair r km) km' = setPair r km' := rfl

/-- The command that runs round r. -/
def roundCommand (r : Fin 6) : HostEvent := cmd (.round (BitVec.ofNat 3 r.val))

/-- A step whose transaction issues a command executes it (30_encoding R55). -/
theorem step_cmd {s : State} {i : Instr} {rest : List HostEvent} (h : s.script = cmd i :: rest) :
    step s = exec i (s.withScript rest) :=
  step_write_of_decode h (decode_encode i)

/-- One ROUND replaces the pair of MA and MB by the round's (43_round R108). -/
theorem step_roundCommand {s : State} {r : Fin 6} {rest : List HostEvent} (hlive : faulted s.regs = false)
    (h : s.script = roundCommand r :: rest) :
    step s = .next { s with
      regs := setPair s.regs (roundPair Config.rc (s.regs.ma, s.regs.mb) r), script := rest } := by
  have hr : (BitVec.ofNat 3 r.val).toNat = r.val := Nat.mod_eq_of_lt (by omega)
  have hlt : (BitVec.ofNat 3 r.val).toNat < 6 := lt_of_eq_of_lt hr r.isLt
  have hindex : (⟨(BitVec.ofNat 3 r.val).toNat, hlt⟩ : Fin 6) = r := Fin.ext hr
  rw [step_cmd h]
  exact exec_round_of_lt (s := s.withScript rest) hlive hlt (congrArg _ hindex)

/-- A run of ROUND commands is the fold of the rounds over their indexes. -/
theorem run_roundCommands (s : State) (rest : List HostEvent) (rounds : List (Fin 6)) : ∀ r : Regs,
    faulted r = false →
    core.run rounds.length { s with regs := r, script := rounds.map roundCommand ++ rest } = .next { s with
      regs := setPair r (rounds.foldl (roundPair Config.rc) (r.ma, r.mb)), script := rest } := by
  induction rounds with
  | nil => exact fun _ _ => rfl
  | cons k rounds ih =>
    intro r hlive
    have hlive' : faulted (setPair r (roundPair Config.rc (r.ma, r.mb) k)) = false :=
      (faulted_congr (setPair_status r _)).trans hlive
    have hstep := step_roundCommand (s := { s with regs := r, script := (k :: rounds).map roundCommand ++ rest })
      (rest := rounds.map roundCommand ++ rest) hlive rfl
    refine (core_run_succ hstep rounds.length).trans ((ih _ hlive').trans ?_)
    simp only [setPair_setPair, setPair_ma, setPair_mb, Prod.mk.eta, List.foldl_cons]

/-- ROUNDS writes the masked-message matrix of the six rounds to MR (43_round R109). -/
theorem exec_rounds_of_live {s : State} (hlive : faulted s.regs = false) :
    exec .rounds s = .next (s.setRegs (s.regs.setMr (roundFunction Config.rc s.regs.ma s.regs.mb))) :=
  exec_of_live .rounds hlive

/-! The three step commands without operand write MR from MA (43_round R104 to R106). -/

theorem exec_rsub_of_live {s : State} (hlive : faulted s.regs = false) :
    exec .rsub s = .next (s.setRegs (s.regs.setMr (substitute s.regs.ma))) :=
  exec_of_live .rsub hlive

theorem exec_rshift_of_live {s : State} (hlive : faulted s.regs = false) :
    exec .rshift s = .next (s.setRegs (s.regs.setMr (shiftRows s.regs.ma))) :=
  exec_of_live .rshift hlive

theorem exec_rdiff_of_live {s : State} (hlive : faulted s.regs = false) :
    exec .rdiff s = .next (s.setRegs (s.regs.setMr (diffuse s.regs.ma))) :=
  exec_of_live .rdiff hlive

/-- Settles O47: the six commands fold the rounds of `roundOrder`, whose second matrix ROUNDS writes; the key half of a
round is its four steps in a row. -/
theorem roundCommandsComposeToRounds : Obligations.RoundCommandsComposeToRounds := by
  refine ⟨fun s t u rest hlive hscript ht hu => ?six, fun s t a b c d r hlive hr ht ha hb hc hd => ?four⟩
  case six =>
    have hrun := run_roundCommands s rest roundOrder s.regs hlive
    rw [show roundOrder.map roundCommand ++ rest = s.script from hscript.symm] at hrun
    cases ht.symm.trans hrun
    cases hu.symm.trans (exec_rounds_of_live hlive)
    rfl
  case four =>
    have live : ∀ r : Regs, r.status = s.regs.status → faulted r = false :=
      fun r h => (faulted_congr h).trans hlive
    cases ht.symm.trans (exec_round_of_lt hlive hr rfl)
    cases ha.symm.trans (exec_rsub_of_live hlive)
    cases hb.symm.trans (exec_rshift_of_live (live _ (by simp)))
    cases hc.symm.trans (exec_rdiff_of_live (live _ (by simp)))
    cases hd.symm.trans (exec_raddrc_of_lt (live _ (by simp)) hr)
    rfl

end Sys2Proof.Machine

/-!
# The two forms of the hash agree (44_compress_hash R117 to R124, 30_encoding R56)

After HINIT and the bytes p, H is the fold over the whole blocks of p, BUF is the block p has begun, with zeros where no
byte has come, and LEN is the length of p. HUPD extends p by one byte, and what HFIN then folds are the last blocks of
Pad(p). The fill bytes of Pad are zeros, so Pad(p) and p have the same bytes up to the length bytes, where the bytes of
p beyond its end are read as zeros.
-/

namespace Sys2Proof.Machine

/-! ## The blocks of a byte sequence (44_compress_hash R119) -/

theorem blockAt_getElem (p : List Byte) (n k : Nat) (hk : k < 16) : (blockAt p n)[k] = p.getD (16 * n + k) 0 := by
  rw [blockAt, Vector.getElem_ofFn]

/-- A block is determined by its sixteen bytes of the sequence. -/
theorem blockAt_congr {p p' : List Byte} {n : Nat}
    (h : ∀ k, 16 * n ≤ k → k < 16 * (n + 1) → p.getD k 0 = p'.getD k 0) : blockAt p n = blockAt p' n := by
  refine Vector.ext fun k hk => ?_
  rw [blockAt_getElem, blockAt_getElem, h _ (by omega) (by omega)]

/-- The fold over n blocks is determined by their 16n bytes. -/
theorem foldBlocks_congr (rc : RoundConstants) {p p' : List Byte} {n : Nat}
    (h : ∀ k, k < 16 * n → p.getD k 0 = p'.getD k 0) : foldBlocks rc p n = foldBlocks rc p' n := by
  induction n with
  | zero => rfl
  | succ n ih =>
    rw [foldBlocks, foldBlocks, ih fun k hk => h k (by omega), blockAt_congr fun k _ hk => h k hk]

/-- Beyond the end of the sequence a block is zero. -/
theorem blockAt_of_length_le {p : List Byte} {n : Nat} (h : p.length ≤ 16 * n) : blockAt p n = zeroBlock := by
  refine Vector.ext fun k hk => ?_
  rw [blockAt_getElem, List.getD_eq_default _ _ (by omega), zeroBlock, Vector.getElem_replicate]

/-- The block a sequence has begun is zero from its fill index on. -/
theorem zeroFrom_blockAt {p : List Byte} {f : Fin 16} (hf : f.val = p.length % 16) :
    zeroFrom f (blockAt p (p.length / 16)) = blockAt p (p.length / 16) := by
  refine Vector.ext fun k hk => ?_
  rw [zeroFrom_getElem, blockAt_getElem]
  split
  · rfl
  · rw [List.getD_eq_default _ _ (by omega)]

theorem getD_concat (p : List Byte) (b : Byte) (k : Nat) :
    (p ++ [b]).getD k 0 = if k = p.length then b else p.getD k 0 := by
  rcases Nat.lt_trichotomy k p.length with h | rfl | h
  · rw [List.getD_append _ _ _ _ h, if_neg h.ne]
  · simp
  · rw [List.getD_eq_default _ _ (by simpa using h), if_neg h.ne', List.getD_eq_default _ _ h.le]

/-- The next byte goes to the block's fill index. -/
theorem set_blockAt (p : List Byte) (b : Byte) :
    (blockAt p (p.length / 16)).set (p.length % 16) b (Nat.mod_lt _ (by decide)) =
      blockAt (p ++ [b]) (p.length / 16) := by
  refine Vector.ext fun k hk => ?_
  have hindex : p.length % 16 = k ↔ 16 * (p.length / 16) + k = p.length := by omega
  simp only [Vector.getElem_set, blockAt_getElem, getD_concat, hindex]

/-- The bytes absorbed before the last do not change with it. -/
theorem foldBlocks_concat (rc : RoundConstants) {p : List Byte} (b : Byte) {n : Nat} (hn : 16 * n ≤ p.length) :
    foldBlocks rc (p ++ [b]) n = foldBlocks rc p n :=
  foldBlocks_congr rc fun k hk => by rw [getD_concat, if_neg (by omega)]

/-! ## The last block of Pad (44_compress_hash R117 to R119) -/

theorem getD_zeroFill (msg : List Byte) (k : Nat) : (zeroFill msg).getD k 0 = msg.getD k 0 := by
  rw [zeroFill]
  rcases Nat.lt_or_ge k msg.length with h | h
  · rw [List.getD_append _ _ _ _ h]
  · rw [List.getD_append_right _ _ _ _ h, List.getD_eq_getElem?_getD, List.getElem?_getD_replicate_default_eq,
      List.getD_eq_default _ _ h]

theorem length_zeroFill (msg : List Byte) : (zeroFill msg).length = paddedLength msg.length := by
  simp [zeroFill_eq, paddedLength_eq, Nat.add_assoc]

theorem getD_set {l : List Byte} {i : Nat} (hi : i < l.length) (v : Byte) (k : Nat) :
    (l.set i v).getD k 0 = if k = i then v else l.getD k 0 := by
  rw [List.getD_eq_getElem?_getD, List.getD_eq_getElem?_getD, List.getElem?_set]
  split
  next h => simp [← h]
  next h => rw [if_neg (Ne.symm h)]

/-- Byte k of Pad: a length byte at the last two places, else the message's, zero beyond its end. -/
theorem getD_pad (msg : List Byte) (k : Nat) : (pad msg).getD k 0 =
    if k = paddedLength msg.length - 1 then lengthLow msg.length
    else if k = paddedLength msg.length - 2 then lengthHigh msg.length else msg.getD k 0 := by
  have hlength : (zeroFill msg).length = 16 * ((msg.length + 1) / 16) + 16 := length_zeroFill msg
  have hpadded : paddedLength msg.length = 16 * ((msg.length + 1) / 16) + 16 := rfl
  rw [pad, getD_set (by rw [List.length_set]; omega), getD_set (by omega), getD_zeroFill]

theorem highByte_ofNat (l : Nat) : highByte (BitVec.ofNat 16 l) = lengthHigh l := by
  rw [highByte_eq_ofNat, BitVec.toNat_ofNat, lengthHigh]

theorem lowByte_ofNat (l : Nat) : lowByte (BitVec.ofNat 16 l) = lengthLow l := by
  rw [lowByte_eq_ofNat, BitVec.toNat_ofNat, lengthLow]

/-- The last block of Pad: what is left of the message, with the length in the last two bytes. -/
theorem blockAt_pad_last (msg : List Byte) : blockAt (pad msg) ((msg.length + 1) / 16) =
    withLength (BitVec.ofNat 16 msg.length) (blockAt msg ((msg.length + 1) / 16)) := by
  have hlength : paddedLength msg.length = 16 * ((msg.length + 1) / 16) + 16 := rfl
  refine Vector.ext fun k hk => ?_
  have hlow : 16 * ((msg.length + 1) / 16) + k = paddedLength msg.length - 1 ↔ k = 15 := by omega
  have hhigh : 16 * ((msg.length + 1) / 16) + k = paddedLength msg.length - 2 ↔ k = 14 := by omega
  simp only [withLength_getElem, blockAt_getElem, getD_pad, highByte_ofNat, lowByte_ofNat, hlow, hhigh]

/-- Hash folds the whole blocks of the message and last the block with the length. -/
theorem hashOf_eq (rc : RoundConstants) (msg : List Byte) : hashOf rc msg =
    compress rc (foldBlocks rc msg ((msg.length + 1) / 16))
      (withLength (BitVec.ofNat 16 msg.length) (blockAt msg ((msg.length + 1) / 16))) := by
  have hlength : paddedLength msg.length = 16 * ((msg.length + 1) / 16) + 16 := rfl
  rw [hashOf, paddedBlocks, foldBlocks, blockAt_pad_last]
  congr 1
  refine foldBlocks_congr rc fun k hk => ?_
  rw [getD_pad, if_neg (by omega), if_neg (by omega)]

/-! ## The registers after HINIT and the bytes p -/

/-- The registers r after HINIT and, for each byte of p, a write of FA and HUPD. -/
def absorbed (rc : RoundConstants) (p : List Byte) (r : Regs) : Regs :=
  { r with
    fa := p.getLastD r.fa, h := foldBlocks rc p (p.length / 16), buf := blockAt p (p.length / 16),
    len := BitVec.ofNat 16 p.length }

theorem fillIndex_ofNat (l : Nat) : (fillIndex (BitVec.ofNat 16 l)).val = l % 16 := by
  simp only [fillIndex, BitVec.toNat_ofNat]
  omega

/-- HINIT starts the empty sequence (44_compress_hash R121). -/
theorem hinitEffect_eq_absorbed (rc : RoundConstants) (r : Regs) : hinitEffect r = .ok (absorbed rc [] r) := by
  rw [absorbed, blockAt_of_length_le (by simp)]
  rfl

/-- The block a byte completes has the bytes of the extended sequence. -/
theorem absorbByte_absorbed (rc : RoundConstants) (p : List Byte) (b : Byte) (r : Regs) :
    absorbByte ((absorbed rc p r).setFa b) = { r with
      fa := b, h := foldBlocks rc p (p.length / 16), buf := blockAt (p ++ [b]) (p.length / 16),
      len := BitVec.ofNat 16 (p.length + 1) } := by
  have hset : (blockAt p (p.length / 16)).set (fillIndex (BitVec.ofNat 16 p.length)) b =
      blockAt (p ++ [b]) (p.length / 16) := by
    simp only [fillIndex_ofNat]
    exact set_blockAt p b
  simp only [absorbByte, absorbed, Regs.setFa, Regs.setBuf, Regs.setLen, hset, BitVec.ofNat_add]
  rfl

/-- HUPD extends the sequence by the byte in FA (44_compress_hash R122). -/
theorem hupdEffect_absorbed (rc : RoundConstants) (p : List Byte) (b : Byte) (r : Regs) :
    hupdEffect rc ((absorbed rc p r).setFa b) = .ok (absorbed rc (p ++ [b]) r) := by
  have hfold := foldBlocks_concat rc b (Nat.mul_div_le p.length 16)
  rw [hupdEffect, absorbByte_absorbed, foldIfFull, absorbed, List.length_append, List.length_singleton,
    List.getLastD_concat]
  split
  next hfull =>
    have hdiv : (p.length + 1) / 16 = p.length / 16 + 1 := by
      have := fillIndex_ofNat (p.length + 1)
      rw [hfull] at this
      simp at this
      omega
    rw [hdiv, foldBlocks, hfold, blockAt_of_length_le (p := p ++ [b]) (n := p.length / 16 + 1) (by simp; omega)]
    rfl
  next hroom =>
    have hdiv : (p.length + 1) / 16 = p.length / 16 := by
      have : (p.length + 1) % 16 ≠ 0 := fun h => hroom (Fin.ext ((fillIndex_ofNat _).trans h))
      omega
    rw [hdiv, hfold]

/-- HFIN folds the last block of Pad, or the last two (44_compress_hash R123). -/
theorem hfinEffect_absorbed (rc : RoundConstants) (p : List Byte) (r : Regs) :
    hfinEffect rc (absorbed rc p r) =
      .ok { r with fa := p.getLastD r.fa, h := hashOf rc p, buf := zeroBlock, len := 0 } := by
  have hlen : (absorbed rc p r).len.toNat % 16 = p.length % 16 := fillIndex_ofNat p.length
  have htail : zeroFrom (fillIndex (absorbed rc p r).len) (absorbed rc p r).buf = blockAt p (p.length / 16) :=
    zeroFrom_blockAt (fillIndex_ofNat p.length)
  by_cases hfull : p.length % 16 = 15
  · have hdiv : (p.length + 1) / 16 = p.length / 16 + 1 := by omega
    rw [hfinEffect_of_no_room rc (hlen.trans hfull), htail, hashOf_eq, hdiv, foldBlocks,
      blockAt_of_length_le (n := p.length / 16 + 1) (by omega)]
    rfl
  · have hdiv : (p.length + 1) / 16 = p.length / 16 := by omega
    rw [hfinEffect_of_room rc (hlen ▸ hfull), htail, hashOf_eq, hdiv]
    rfl

/-! ## The transactions of the host (30_encoding R55, R56) -/

/-- Runs compose. -/
theorem core_run_add {m : Nat} : ∀ {s t : State}, core.run m s = .next t → ∀ n, core.run (m + n) s = core.run n t := by
  induction m with
  | zero =>
    intro s t h n
    cases h
    rw [Nat.zero_add]
  | succ m ih =>
    intro s t h n
    obtain ⟨u, hu⟩ := everyCommandAndStepCompletes.2 s
    rw [Nat.add_right_comm]
    exact (core_run_succ hu (m + n)).trans (ih ((core_run_succ hu m).symm.trans h) n)

/-- A command whose effect completes replaces the registers by the effect's. -/
theorem step_cmd_of_ok {s : State} {i : Instr} {rest : List HostEvent} {r : Regs} (hlive : faulted s.regs = false)
    (h : s.script = cmd i :: rest) (he : commandEffect i s.regs = .ok r) :
    step s = .next { s with regs := r, script := rest } := by
  rw [step_cmd h, exec_of_live (s := s.withScript rest) i hlive, State.withScript_regs, he]
  rfl

theorem step_wr_fa {s : State} {b : Byte} {rest : List HostEvent} (hlive : faulted s.regs = false)
    (h : s.script = wr .fa b :: rest) :
    step s = .next { s with regs := s.regs.setFa b, script := rest } := by
  rw [step_cons h, carryOut_wr (by decide), storeByte_of_live (s := s.withScript rest) hlive]
  rfl

/-- `ABSORB b` extends the sequence by b (30_encoding R56). -/
theorem run_absorb_byte (s : State) (rest : List HostEvent) {r : Regs} (hlive : faulted r = false) (p : List Byte)
    (b : Byte) :
    core.run 2 { s with regs := absorbed Config.rc p r, script := absorb b ++ rest } =
      .next { s with regs := absorbed Config.rc (p ++ [b]) r, script := rest } := by
  have hwr : step { s with regs := absorbed Config.rc p r, script := absorb b ++ rest } =
      .next { s with regs := (absorbed Config.rc p r).setFa b, script := cmd .hupd :: rest } :=
    step_wr_fa hlive rfl
  have hupd : step { s with regs := (absorbed Config.rc p r).setFa b, script := cmd .hupd :: rest } =
      .next { s with regs := absorbed Config.rc (p ++ [b]) r, script := rest } :=
    step_cmd_of_ok hlive rfl (hupdEffect_absorbed Config.rc p b r)
  exact (core_run_succ hwr 1).trans (core_run_succ hupd 0)

/-- The bytes of a message absorbed one after the other extend the sequence by the message. -/
theorem run_absorb (s : State) (rest : List HostEvent) {r : Regs} (hlive : faulted r = false) (msg : List Byte) :
    ∀ p : List Byte,
    core.run (2 * msg.length) { s with regs := absorbed Config.rc p r, script := msg.flatMap absorb ++ rest } =
      .next { s with regs := absorbed Config.rc (p ++ msg) r, script := rest } := by
  induction msg with
  | nil =>
    intro p
    rw [List.append_nil]
    rfl
  | cons b msg ih =>
    intro p
    have hbyte := run_absorb_byte s (msg.flatMap absorb ++ rest) hlive p b
    rw [List.length_cons, Nat.mul_succ, Nat.add_comm, List.append_cons, List.flatMap_cons, List.append_assoc]
    exact (core_run_add hbyte _).trans (ih (p ++ [b]))

/-- The sequence of R124 leaves the hash in H (44_compress_hash R124). -/
theorem run_hashSequence {s : State} (hlive : faulted s.regs = false) (msg : List Byte) (rest : List HostEvent)
    (h : s.script = hashSequence msg ++ rest) :
    core.run (2 * msg.length + 2) s = .next { s with
      regs := { s.regs with fa := msg.getLastD s.regs.fa, h := hashOf Config.rc msg, buf := zeroBlock, len := 0 },
      script := rest } := by
  have hinit : step s = .next { s with
      regs := absorbed Config.rc [] s.regs, script := msg.flatMap absorb ++ (cmd .hfin :: rest) } :=
    step_cmd_of_ok (i := .hinit) hlive (by rw [h, hashSequence, List.cons_append, List.append_assoc]; rfl)
      (hinitEffect_eq_absorbed Config.rc s.regs)
  have habsorb := run_absorb s (cmd .hfin :: rest) hlive msg []
  have hfin : step { s with regs := absorbed Config.rc msg s.regs, script := cmd .hfin :: rest } = .next { s with
      regs := { s.regs with fa := msg.getLastD s.regs.fa, h := hashOf Config.rc msg, buf := zeroBlock, len := 0 },
      script := rest } :=
    step_cmd_of_ok hlive rfl (hfinEffect_absorbed Config.rc msg s.regs)
  exact (core_run_succ hinit _).trans ((core_run_add habsorb 1).trans (core_run_succ hfin 0))

/-- Settles O53: HINIT starts the empty sequence, each byte extends it, and HFIN folds what is left of Pad. -/
theorem streamingCommandsComputeTheHash : Obligations.StreamingCommandsComputeTheHash :=
  fun _ msg rest hlive h => run_hashSequence hlive msg rest h

/-! ## The digest on the bus (44_compress_hash R126) -/

/-- Reads answer the bytes they name, the latest first, and change no register (20_memory R32). -/
theorem run_reads (locs : List Location) (rest : List HostEvent) : ∀ s : State, s.script = locs.map rd ++ rest →
    core.run locs.length s = .next { s with
      script := rest, reads := (locs.map (readLocation s.regs)).reverse ++ s.reads } := by
  induction locs with
  | nil =>
    intro s h
    obtain rfl : s.script = rest := h
    rfl
  | cons loc locs ih =>
    intro s h
    have hread : step s = .next ((s.withScript (locs.map rd ++ rest)).answer (readLocation s.regs loc)) :=
      (step_cons h).trans (carryOut_rd loc _)
    refine (core_run_succ hread _).trans ((ih _ rfl).trans ?_)
    simp [State.answer, State.withScript]

/-- The locations of H hold its bytes in order (20_memory R31). -/
theorem map_readLocation_h (r : Regs) :
    ((List.finRange 16).map Location.h).map (readLocation r) = r.h.toList := by
  refine List.ext_getElem (by simp) fun k hk _ => ?_
  simp [readLocation]

/-- `RDM H` answers the sixteen bytes of H, byte 0 first (30_encoding R56). -/
theorem run_rdm_h {s : State} {rest : List HostEvent} (h : s.script = rdm .h ++ rest) :
    core.run 16 s = .next { s with script := rest, reads := s.regs.h.toList.reverse ++ s.reads } := by
  have hrdm : rdm .h = ((List.finRange 16).map Location.h).map rd := (List.map_map ..).symm
  have hreads := run_reads ((List.finRange 16).map Location.h) rest s (hrdm ▸ h)
  rwa [map_readLocation_h, List.length_map, List.length_finRange] at hreads

/-- Settles O54: after the sequence of R124 the sixteen reads of `RDM H` answer the bytes of the hash. -/
theorem hashScriptReadsTheDigestInOrder : Obligations.HashScriptReadsTheDigestInOrder := by
  intro s msg rest hlive h
  have hhash := run_hashSequence hlive msg (rdm .h ++ rest) (by rw [h, hashScript, List.append_assoc])
  exact ⟨_, (core_run_add hhash 16).trans (run_rdm_h rfl), rfl, rfl⟩

end Sys2Proof.Machine
